-- ==== Sys2Proof/Word.lean ====
section
/-! DEFINITION. The word types of the CORE (R12, R15): every bit vector of the spec by its width. -/

namespace Sys2Proof

/-- 8 bits: a character code, a GlyphPattern, a byte of the command port (R15). -/
abbrev Byte := BitVec 8

/-- 16 bits: a TransferWord, segments in bits 15 to 8 and digit select in bits 7 to 0 (R15, R87). -/
abbrev Word16 := BitVec 16

/-- 32 bits: a binary32 pattern, and what four bytes of a port carry (R92, R96, R98 to R101; the spec's decision
D2). The widths `W_T` and `XLEN_I` are parameters (R6). -/
abbrev Word := BitVec 32

/-- A GlyphIndex as it is held: 5 bits, of which 29, 30 and 31 name no glyph (R15, R82). -/
abbrev GlyphIndex := BitVec 5

/-- A digit position 0 to 3; position 0 is the rightmost digit (R15, R155). -/
abbrev Position := BitVec 2

/-- The low byte of a TransferWord: the digit-select half (R87). -/
def selectByte (w : Word16) : Byte := w.extractLsb' 0 8

/-- The high byte of a TransferWord: the segment half (R87). -/
def segmentByte (w : Word16) : Byte := w.extractLsb' 8 8

end Sys2Proof
end

