-- ==== Sys2Proof/Config.lean ====
section
/-! DEFINITION. The implementation parameters of R6: those that are fixed as constants, those left
to the implementation as a record of plain data (a field of State that no step writes, log 3), and the free values of the model:
the clock (log 1) and a numerics the spec does not describe (log 8). -/

namespace Sys2Proof

/-- The instantiations of the numerics field `NUMERICS.scale_round`: the two that the spec describes, and any
other function of the operands (R148, R151, D3, U22; log 8). -/
inductive Numerics where
  /-- `floor(val(f) * 10^dpp + 1/2)` in exact arithmetic: the spec's definition (R148). -/
  | exact
  /-- Product and sum each rounded to binary32, ties to even, then truncated (R151). -/
  | binary32PerOperation
  /-- Any other function of f and dpp: the free value `Config.scaleRoundOther` (R148). -/
  | other
deriving DecidableEq, Repr

/-- How the transport adapter puts a word on the wire (R58, U23). No rule of the CORE reads it. -/
inductive AdapterMode where
  /-- Native least-significant-bit-first: bit 0 of the word leaves first. -/
  | nativeLsbFirst
  /-- A most-significant-bit-first bus: the adapter reverses each byte by BITREV first. -/
  | msbFirstManualReversal
deriving DecidableEq, Repr

/-- The parameters of R6 whose value an implementation may set: those the spec calls OPEN and those it keeps as named
parameters with a value of its own. A statement about every state is a statement about every value of them. The
parameters whose value R6 calls fixed are the constants below. -/
structure Config where
  /-- `GLYPH_ROM`, the content of the space GLYPH: 29 patterns (R51, R123, D6). -/
  glyphRom : Vector Byte 29
  /-- `POINT_AT_DPP0`: does decimalPointPosition 0 light a point (R143, D8)? -/
  pointAtDpp0 : Bool
  /-- The numerics field (R148, D3). -/
  numerics : Numerics
  /-- `ADAPTER_MODE` (R58, D23). -/
  adapterMode : AdapterMode
  /-- `DEFAULT_REFRESH`: the default refresh window in milliseconds (R6, D18: 10000). -/
  defaultRefresh : Nat
  /-- `W_T`: the width in bits of the clock and of `REFRESH_RATE` (R6, D17: 32). -/
  wT : Nat
  /-- `XLEN_I`: the width in bits of the integer operand (R6, D1: 32). -/
  xlenI : Nat
  /-- `STR_MAX`: the longest text operand in characters (R6, D16: 255). -/
  strMax : Nat
deriving DecidableEq, Repr

/-- Digit positions of the module (R6). -/
abbrev Config.digitsPerModule : Nat := 4

/-- Entries of the glyph ROM (R6). -/
abbrev Config.glyphCount : Nat := 29

/-- Index of the blank glyph (R6). -/
abbrev Config.blank : GlyphIndex := 27

/-- Largest integer shown (R6). -/
abbrev Config.maxValue : Nat := 9999

/-- THE FREE VALUE of the clock: how many milliseconds of true time pass between clock sample number j - 1
and sample number j, for a j whose answer the list `State.advances` does not give (R9, R68, U24; log 1).
It has no body: nothing can be proved of its values beyond their being natural numbers, which is the
clock axiom "non-decreasing". -/
opaque Config.clockAdvance : Nat → Nat

/-- THE FREE VALUE of the scaling: what `NUMERICS.scale_round(f, dpp)` is on a device of neither described
numerics (R148, U22; log 8). It has no body: nothing can be proved of its values. -/
opaque Config.scaleRoundOther : Word → Nat → Nat

end Sys2Proof
end

