-- ==== Sys2Proof/Machine/Tables.lean ====
section
/-! DEFINITION. The four read-only spaces of the CORE (R50): GLYPH (its default content, R128), CHARMAP (R85),
REV4 (R53) and POW10 (R54), and `memRead`, the spec's `MemRead(space:addr, 1)` (R14). -/

namespace Sys2Proof.Machine

/-- The default `GLYPH_ROM` of R128. PRESUMED: the spec marks every value of it as general knowledge (G4);
only State.reset and the tests use it (log 3). -/
def defaultGlyphRom : Vector Byte 29 :=
  #v[0xFC, 0x60, 0xDA, 0xF2, 0x66, 0xB6, 0xBE, 0xE0, 0xFE, 0xF6,
     0xEE, 0x3E, 0x9C, 0x7A, 0x9E, 0x8E, 0xBC, 0x6E, 0x78, 0x1C,
     0xA8, 0x2A, 0xCE, 0x0A, 0x1E, 0x7C, 0x76, 0x00, 0x54]

/-- The spec's default for every parameter of `Config`: R128, R143 (`POINT_AT_DPP0` false), R148 (exact numerics),
R6 (`DEFAULT_REFRESH` 10000, `W_T` and `XLEN_I` 32, `STR_MAX` 255).
For `ADAPTER_MODE` the spec names no default: DESIGN CHOICE native (log 3). -/
def defaultConfig : Config :=
  { glyphRom := defaultGlyphRom, pointAtDpp0 := false, numerics := .exact, adapterMode := .nativeLsbFirst,
    defaultRefresh := 10000, wT := 32, xlenI := 32, strMax := 255 }

/-- The entries of CHARMAP for the 26 letters A to Z, in that order (R85). -/
def letterEntries : List GlyphIndex :=
  [10, 8, 12, 13, 14, 15, 16, 17, 1, 18, 27, 19, 20, 21, 0, 22, 9, 23, 5, 24, 25, 25, 28, 27, 26, 2]

/-- The space CHARMAP, 256 entries, written range by range as the table of R85. -/
def charmap : List GlyphIndex :=
  List.replicate 0x30 27 ++ [0, 1, 2, 3, 4, 5, 6, 7, 8, 9] ++ List.replicate 7 27 ++ letterEntries ++
    List.replicate 6 27 ++ letterEntries ++ List.replicate 133 27

/-- The space REV4, 16 entries (R53). -/
def rev4 : List (BitVec 4) :=
  [0x0, 0x8, 0x4, 0xC, 0x2, 0xA, 0x6, 0xE, 0x1, 0x9, 0x5, 0xD, 0x3, 0xB, 0x7, 0xF]

/-- The space POW10, 5 entries (R54). -/
def pow10 : List Nat := [1, 10, 100, 1000, 10000]

/-- `POW10[e]`; every use has e at most 4 (R54, R59). -/
def pow10At (e : Nat) : Nat := pow10.getD e 0

/-- `REV4[n]` (R53). -/
def rev4At (n : BitVec 4) : BitVec 4 := rev4.getD n.toNat 0

/-- The four read-only spaces (R50). -/
inductive Space where
  | glyph
  | charmap
  | rev4
  | pow10
deriving DecidableEq, Repr

/-- `MemRead(space:index, 1)` as a number; none where the space has no such entry (R14, R50). No read has a
side effect (R60). -/
def memRead (rom : Vector Byte 29) (sp : Space) (index : Nat) : Option Nat :=
  match sp with
  | .glyph => (rom[index]?).map BitVec.toNat
  | .charmap => (charmap[index]?).map BitVec.toNat
  | .rev4 => (rev4[index]?).map BitVec.toNat
  | .pow10 => pow10[index]?

end Sys2Proof.Machine
end

