-- ==== Sys2Proof/Syntax.lean ====
section
/-! DEFINITION. The six operations of the CORE's public surface (R96 and section 6 of 30_encoding.md), one
constructor per row of spec/opcode_table.json, and the types their operands and results have. -/

namespace Sys2Proof

/-- The polarity of the display module (R26, R90): ANODE is coded 0, CATHODE 1. -/
inductive Polarity where
  | anode
  | cathode
deriving DecidableEq, Repr

/-- The two condition signals a formatter can raise (R15, R30, R230). They are not state. -/
inductive Signal where
  | overflow
  | sign
deriving DecidableEq, Repr

/-- A DigitFrame (R86): glyph index, position, decimal-point flag. -/
structure DigitFrame where
  g : GlyphIndex
  pos : Position
  dp : Bool
deriving DecidableEq, Repr

/-- The ordered list of frames one print produces (R15, R157). -/
abbrev FrameSeq := List DigitFrame

/-- What a formatter gives: a FrameSeq, or one Signal (R15, R140). -/
inductive Formatted where
  | frames (seq : FrameSeq)
  | raised (sig : Signal)
deriving DecidableEq, Repr

/-- The operations of the command port. -/
inductive Instr where
  /-- `CONSTRUCT pol` (R97, R211). -/
  | construct (pol : Polarity)
  /-- `SETRATE ms` (R98, R212): the bytes of `ms` are an unsigned number of `W_T` bits (R95). -/
  | setrate (ms : Word)
  /-- `GETRATE` (R99, R213). -/
  | getrate
  /-- `PRINTI v`: the bytes of `v` are a signed integer of `XLEN_I` bits (R91, R100, R214). -/
  | printi (v : Word)
  /-- `PRINTF f, dpp`: `f` a binary32 pattern, `dpp` the byte decimalPointPosition (R92, R93, R101, R215). -/
  | printf (f : Word) (dpp : Byte)
  /-- `PRINTS text`: character codes, leftmost first (R94, R102, R216). -/
  | prints (text : List Byte)
deriving DecidableEq, Repr

/-- The pseudo-operation `CONSTRUCT` with no operand (R108 a). -/
def Instr.constructDefault : Instr := .construct .anode

end Sys2Proof
end

