-- ==== Sys2Proof/Machine/Operands.lean ====
section
/-! DEFINITION. The operand formats: the signed integer (R91), binary32 (R92), byte order of the ports (R96),
the decimal digits of an integer (R141) and the scaling of a float (R148, R151). -/

namespace Sys2Proof.Machine

/-! ## Byte order (R96): least significant byte first -/

/-- Four bytes of the command port, first byte least significant, as one 32-bit operand. -/
def wordOfBytes (b0 b1 b2 b3 : Byte) : Word := b3 ++ b2 ++ b1 ++ b0

/-- A 32-bit value as the four bytes of a port, least significant first (R96, R99). -/
def bytesOfWord (w : Word) : List Byte :=
  [w.extractLsb' 0 8, w.extractLsb' 8 8, w.extractLsb' 16 8, w.extractLsb' 24 8]

/-! ## Widths that are parameters (R6): `W_T` (R25, R95) and `XLEN_I` (R91) -/

/-- The number a `w`-bit field holds of n: n modulo 2^w. -/
def toWidth (w n : Nat) : Nat := n % 2 ^ w

/-- The value of the operand of PRINTI, `sext(v)` read as an integer of `XLEN_I` bits (R91). The four bytes of the port
are sign-extended when `XLEN_I` is more than 32, and their low bits are the operand when it is less (log 23). -/
def integerValue (xlenI : Nat) (v : Word) : Int := (v.signExtend xlenI).toInt

/-! ## binary32 (R92) -/

/-- Bit 31: the sign. -/
def f32Sign (f : Word) : Bool := f.getLsbD 31

/-- Bits 30 to 23: the biased exponent e. -/
def f32Exponent (f : Word) : Nat := (f.extractLsb' 23 8).toNat

/-- Bits 22 to 0: the fraction m. -/
def f32Fraction (f : Word) : Nat := (f.extractLsb' 0 23).toNat

/-- e = 255 and m not 0. -/
def isNaN (f : Word) : Bool := f32Exponent f == 255 && f32Fraction f != 0

/-- e = 255 and m = 0, of either sign. -/
def isInfinite (f : Word) : Bool := f32Exponent f == 255 && f32Fraction f == 0

/-- The denominator of `f32Magnitude`: 2^149. Every finite binary32 value is a whole number of 2^-149. -/
def f32Unit : Nat := 2 ^ 149

/-- The absolute value of a finite pattern, as a whole number of 2^-149: m when e = 0, else
(2^23 + m) * 2^(e-1) (R92). -/
def f32Magnitude (f : Word) : Nat :=
  if f32Exponent f = 0 then f32Fraction f else (2 ^ 23 + f32Fraction f) * 2 ^ (f32Exponent f - 1)

/-! ## Decimal digits (R141) -/

/-- Digit k of DIGITS(N): k = 0 the units, 3 the thousands. -/
def digit (N k : Nat) : Nat := N / 10 ^ k % 10

/-! ## NUMERICS.scale_round (R148, R151) -/

/-- Round-to-nearest, ties-to-even of the quotient `num / den`, in units of 2^-149, to a significand of at
most 24 bits: `(q, shift)` stands for `q * 2^shift` units (R151; binary32 of R92 with no upper bound on the
exponent). -/
def roundSignificand (num den : Nat) : Nat × Nat :=
  let shift := Nat.log2 (num / den) - 23
  let step := den * 2 ^ shift
  let q := num / step
  let r := num % step
  (if step < 2 * r ∨ (2 * r = step ∧ q % 2 = 1) then q + 1 else q, shift)

/-- RN32 of a value given as a whole number of 2^-149, again as such a number (R151). -/
def roundBinary32 (x : Nat) : Nat :=
  (roundSignificand x 1).1 * 2 ^ (roundSignificand x 1).2

/-- `floor(x + 1/2)` for x a whole number of 2^-149: the exact numerics of R148. -/
def roundHalfUp (x : Nat) : Nat := (2 * x + f32Unit) / (2 * f32Unit)

/-- `floor(RN32(RN32(x) + 1/2))` for x a whole number of 2^-149: the per-operation numerics of R151. -/
def roundPerOperation (x : Nat) : Nat := roundBinary32 (roundBinary32 x + f32Unit / 2) / f32Unit

/-- `NUMERICS.scale_round(f, dpp)` for f finite and not negative (R148). -/
def scaleRound (num : Numerics) (f : Word) (dpp : Nat) : Nat :=
  match num with
  | .exact => roundHalfUp (f32Magnitude f * pow10At dpp)
  | .binary32PerOperation => roundPerOperation (f32Magnitude f * pow10At dpp)
  | .other => Config.scaleRoundOther f dpp

end Sys2Proof.Machine
end

