-- ==== Sys2Proof/WellFormed.lean ====
section
/-! DEFINITION. Which instructions the command port can spell: the operand ranges of R90 to R95 that the
types of Instr do not already enforce (R105). -/

namespace Sys2Proof

/-- The well-formed operations. The polarity, the rate, the integer and every character code are legal in
every value (R105); a float must not be NaN, dpp is 0 to 4, and the one length byte of a text counts to 255 (R102). -/
def Instr.wellFormed : Instr → Bool
  | .construct _ => true
  | .setrate _ => true
  | .getrate => true
  | .printi _ => true
  | .printf f dpp => !Machine.isNaN f && dpp.toNat ≤ 4
  | .prints text => text.length ≤ 255

/-- The operand is in the range the parameters set: a text has at most `STR_MAX` characters (R94). With the spec's
value 255 every well-formed operation is. -/
def Instr.withinLimits (cfg : Config) : Instr → Bool
  | .construct _ => true
  | .setrate _ => true
  | .getrate => true
  | .printi _ => true
  | .printf _ _ => true
  | .prints text => text.length ≤ cfg.strMax

end Sys2Proof
end

