-- ==== Sys2Proof/Decode.lean ====
section
/-! DEFINITION. The decoder of the command port's byte stream, total on any bytes (R96 to R106), the encoder
written from the same table, and the host's reading of one opcode-table word. -/

namespace Sys2Proof

/-- Why a complete operation is invalid (R104, R105, R106). -/
inductive DecodeError where
  /-- Opcode byte 0x06 to 0xFF (R104, U7). -/
  | reservedOpcode
  /-- Polarity byte 0x02 to 0xFF (R105, U18). -/
  | reservedPolarity
  /-- A float operand that is NaN (R105, U4). -/
  | floatIsNaN
  /-- A dpp byte 0x05 to 0xFF (R105, U5). -/
  | reservedDpp
deriving DecidableEq, Repr

/-- What the decoder reads from the front of the port. -/
inductive Decoded where
  /-- An operation with legal operands, and the bytes after it. -/
  | operation (i : Instr) (rest : List Byte)
  /-- Too few bytes: the CORE waits for the rest (R106, U25). -/
  | incomplete
  /-- A complete spelling of no operation. -/
  | invalid (e : DecodeError)
deriving DecidableEq, Repr

/-- Byte 1 of CONSTRUCT (R97). -/
def decodeConstruct : List Byte → Decoded
  | [] => .incomplete
  | pp :: rest =>
    if pp = 0x00 then .operation (.construct .anode) rest
    else if pp = 0x01 then .operation (.construct .cathode) rest
    else .invalid .reservedPolarity

/-- Bytes 1 to 4 of SETRATE (R98). -/
def decodeSetrate : List Byte → Decoded
  | b0 :: b1 :: b2 :: b3 :: rest => .operation (.setrate (Machine.wordOfBytes b0 b1 b2 b3)) rest
  | _ => .incomplete

/-- Bytes 1 to 4 of PRINTI (R100). -/
def decodePrinti : List Byte → Decoded
  | b0 :: b1 :: b2 :: b3 :: rest => .operation (.printi (Machine.wordOfBytes b0 b1 b2 b3)) rest
  | _ => .incomplete

/-- Bytes 1 to 5 of PRINTF (R101). -/
def decodePrintf : List Byte → Decoded
  | b0 :: b1 :: b2 :: b3 :: dd :: rest =>
    if Machine.isNaN (Machine.wordOfBytes b0 b1 b2 b3) then .invalid .floatIsNaN
    else if 4 < dd.toNat then .invalid .reservedDpp
    else .operation (.printf (Machine.wordOfBytes b0 b1 b2 b3) dd) rest
  | _ => .incomplete

/-- The length byte and the characters of PRINTS (R102, R103). -/
def decodePrints : List Byte → Decoded
  | [] => .incomplete
  | ll :: cs =>
    if cs.length < ll.toNat then .incomplete
    else .operation (.prints (cs.take ll.toNat)) (cs.drop ll.toNat)

/-- The decoder (R96, R103, R106). -/
def decode : List Byte → Decoded
  | [] => .incomplete
  | op :: args =>
    if op = 0x00 then decodeConstruct args
    else if op = 0x01 then decodeSetrate args
    else if op = 0x02 then .operation .getrate args
    else if op = 0x03 then decodePrinti args
    else if op = 0x04 then decodePrintf args
    else if op = 0x05 then decodePrints args
    else .invalid .reservedOpcode

/-- How many bytes the operation at the front of the port has, as far as its first bytes tell (R103); a
reserved opcode is one byte (R104). None while the length is not known yet. -/
def operationLength : List Byte → Option Nat
  | [] => none
  | op :: args =>
    if op = 0x00 then some 2
    else if op = 0x01 then some 5
    else if op = 0x02 then some 1
    else if op = 0x03 then some 5
    else if op = 0x04 then some 6
    else if op = 0x05 then args.head?.map fun ll => 2 + ll.toNat
    else some 1

/-- The polarity byte (R90, R97). -/
def polarityByte : Polarity → Byte
  | .anode => 0x00
  | .cathode => 0x01

/-- The encoder: the bytes of an operation, first byte first (R96 to R102). -/
def encode : Instr → List Byte
  | .construct pol => [0x00, polarityByte pol]
  | .setrate ms => 0x01 :: Machine.bytesOfWord ms
  | .getrate => [0x02]
  | .printi v => 0x03 :: Machine.bytesOfWord v
  | .printf f dpp => 0x04 :: (Machine.bytesOfWord f ++ [dpp])
  | .prints text => 0x05 :: BitVec.ofNat 8 text.length :: text

/-- Byte k of a table word: bits 8k+7 to 8k of `w`, where the bits at or above `nbits` are 0. -/
def tableByte (nbits w k : Nat) : Byte := BitVec.ofNat 8 (w % 2 ^ nbits / 2 ^ (8 * k))

/-- The bytes of a table word's own operation, first byte first, as many as its first two bytes say (R103). -/
def tableOperation (nbits w : Nat) : List Byte :=
  (List.range ((operationLength [tableByte nbits w 0, tableByte nbits w 1]).getD 0)).map (tableByte nbits w)

/-- The instruction the decoder reads from a word of spec/opcode_table.json. -/
def decodeTableWord (nbits w : Nat) : Option Instr :=
  match decode (tableOperation nbits w) with
  | .operation i _ => some i
  | .incomplete => none
  | .invalid _ => none

end Sys2Proof
end

