-- ==== Sys2Proof/Machine/GlyphTable.lean ====
section
/-! DEFINITION. The Glyph Table: units LOOKUP (R120), GLYPH (R122) and BITREV (R124), each a pure function. -/

namespace Sys2Proof.Machine

/-- The entry of an upper-case letter, by the source's list; anything else is blank (R120). -/
def lookupUpper (u : Nat) : GlyphIndex :=
  match u with
  | 0x41 => 10 -- A
  | 0x42 => 8 -- B
  | 0x43 => 12 -- C
  | 0x44 => 13 -- D
  | 0x45 => 14 -- E
  | 0x46 => 15 -- F
  | 0x47 => 16 -- G
  | 0x48 => 17 -- H
  | 0x49 => 1 -- I
  | 0x4A => 18 -- J
  | 0x4C => 19 -- L
  | 0x4D => 20 -- M
  | 0x4E => 21 -- N
  | 0x4F => 0 -- O
  | 0x50 => 22 -- P
  | 0x51 => 9 -- Q
  | 0x52 => 23 -- R
  | 0x53 => 5 -- S
  | 0x54 => 24 -- T
  | 0x55 => 25 -- U
  | 0x56 => 25 -- V
  | 0x57 => 28 -- W
  | 0x59 => 26 -- Y
  | 0x5A => 2 -- Z
  | _ => Config.blank

/-- LOOKUP: character code to GlyphIndex (R120). -/
def lookup (c : Byte) : GlyphIndex :=
  if 0x30 ≤ c.toNat ∧ c.toNat ≤ 0x39 then BitVec.ofNat 5 (c.toNat - 0x30)
  else lookupUpper (if 0x61 ≤ c.toNat ∧ c.toNat ≤ 0x7A then c.toNat - 0x20 else c.toNat)

/-- GLYPH: GlyphIndex to GlyphPattern, a direct table lookup (R122); none for 29, 30 and 31, which are no
GlyphIndices (U6). -/
def glyph (rom : Vector Byte 29) (g : GlyphIndex) : Option Byte := rom[g.toNat]?

/-- BITREV: the byte with its bits in the opposite order, by two nibble lookups (R124). -/
def bitrev (b : Byte) : Byte := rev4At (b.extractLsb' 0 4) ++ rev4At (b.extractLsb' 4 4)

end Sys2Proof.Machine
end

