-- ==== Sys2Proof/Machine/Encoder.lean ====
section
/-! DEFINITION. The Frame Encoder: unit ENCODE (R170). -/

namespace Sys2Proof.Machine

/-- The high byte before polarity: the pattern, with bit 0 set when the point is requested (R171). -/
def highByte (p : Byte) (dp : Bool) : Byte := p ||| (if dp then 0x01 else 0x00)

/-- The low byte before polarity: the one-hot digit-select mask (R172). -/
def lowByte (pos : Position) : Byte := 0x10#8 <<< pos.toNat

/-- ENCODE (R170): CATHODE inverts the high byte (R173), ANODE the low byte (R174). -/
def encodeWord (p : Byte) (pos : Position) (dp : Bool) (pol : Polarity) : Word16 :=
  (match pol with | .cathode => ~~~(highByte p dp) | .anode => highByte p dp) ++
    (match pol with | .cathode => lowByte pos | .anode => ~~~(lowByte pos))

/-- The word of one frame: GLYPH, then ENCODE (R189); none where the frame's index names no glyph (U6). -/
def frameWord (rom : Vector Byte 29) (pol : Polarity) (fr : DigitFrame) : Option Word16 :=
  (glyph rom fr.g).map fun p => encodeWord p fr.pos fr.dp pol

end Sys2Proof.Machine
end

