-- ==== Sys2Proof/Machine/Flags.lean ====
section
/-! DEFINITION. The CORE has no flags and no condition codes (R30); what it has are the two condition signals
OVERFLOW and SIGN. Here is the test each formatter makes for them (R231, R232). -/

namespace Sys2Proof.Machine

/-- The tests of FMTINT (R144): SIGN below 0, OVERFLOW above 9999. -/
def integerSignal (v : Int) : Option Signal :=
  if v < 0 then some .sign else if (Config.maxValue : Int) < v then some .overflow else none

/-- The negative test of FMTFIX (R147): -infinity, or a finite value below 0; -0 is not negative. -/
def isNegative (f : Word) : Bool := f32Sign f && (isInfinite f || f32Magnitude f != 0)

/-- The limit test of FMTFIX (R147): +infinity, or a value at or above 10^(4-dpp). Used on a pattern that
is not negative. -/
def atOrAboveLimit (f : Word) (dpp : Nat) : Bool :=
  isInfinite f || decide (pow10At (4 - dpp) * f32Unit ≤ f32Magnitude f)

/-- The range tests of FMTFIX, SIGN first (R146, R237). The pattern is not NaN. -/
def fixedSignal (f : Word) (dpp : Nat) : Option Signal :=
  if isNegative f then some .sign else if atOrAboveLimit f dpp then some .overflow else none

/-- The test of FMTSTR on the number of characters other than the point (R152); never SIGN. -/
def textSignal (displayed : Nat) : Option Signal :=
  if Config.digitsPerModule < displayed then some .overflow else none

end Sys2Proof.Machine
end

