-- ==== Sys2Proof/Machine/Formatter.lean ====
section
/-! DEFINITION. The Value Formatter: COUNT (R142), POINT (R143), FMTINT (R144), FMTFIX (R146), FMTSTR (R152).
A formatter is a function of its operands and of the OPEN parameters alone (R140). -/

namespace Sys2Proof.Machine

/-- The loop of COUNT from index i down: how many digits are left when it stops (R142). At i = 0 the test
`i > dpp` cannot hold. -/
def countFrom (d : Nat → Nat) (dpp : Nat) : Nat → Nat
  | 0 => 1
  | i + 1 => if dpp < i + 1 ∧ d (i + 1) = 0 then countFrom d dpp i else i + 2

/-- COUNT: the number of digits shown after leading-zero suppression (R142). -/
def count (d : Nat → Nat) (dpp : Nat) : Nat := countFrom d dpp 3

/-- POINT: the point flag of the digit at position k (R143). -/
def point (pointAtDpp0 : Bool) (k dpp : Nat) : Bool :=
  decide (k = dpp) && (decide (1 ≤ dpp ∧ dpp ≤ 3) || (decide (dpp = 0) && pointAtDpp0))

/-- Frame k of the integer path: digit k on position k (R144). -/
def integerFrame (pointAtDpp0 : Bool) (N dpp k : Nat) : DigitFrame :=
  { g := BitVec.ofNat 5 (digit N k), pos := BitVec.ofNat 2 k, dp := point pointAtDpp0 k dpp }

/-- The frames of an integer 0 to 9999 (R144): frame 0 is the units digit. -/
def integerFrames (pointAtDpp0 : Bool) (N dpp : Nat) : FrameSeq :=
  (List.range (count (digit N) dpp)).map (integerFrame pointAtDpp0 N dpp)

/-- FMTINT (R144). -/
def fmtInt (cfg : Config) (v : Int) (dpp : Nat) : Formatted :=
  match integerSignal v with
  | some sig => .raised sig
  | none => .frames (integerFrames cfg.pointAtDpp0 v.toNat dpp)

/-- FMTFIX (R146), for f not NaN and dpp at most 4: the range tests, the scaling, then FMTINT, which may
still raise OVERFLOW when the value rounds to 10000 (R149). -/
def fmtFix (cfg : Config) (f : Word) (dpp : Nat) : Formatted :=
  match fixedSignal f dpp with
  | some sig => .raised sig
  | none => fmtInt cfg (scaleRound cfg.numerics f dpp) dpp

/-- The character '.' (R84). -/
def pointChar : Byte := 0x2E

/-- A '.' attaches a point to the previous displayed character; with none before it, it is discarded
(R152, R153 a, b). The list is newest first. -/
def attachPoint : List (GlyphIndex × Bool) → List (GlyphIndex × Bool)
  | [] => []
  | (g, _) :: shown => (g, true) :: shown

/-- One character of the scan of FMTSTR (R152). -/
def scanChar (shown : List (GlyphIndex × Bool)) (c : Byte) : List (GlyphIndex × Bool) :=
  if c = pointChar then attachPoint shown else (lookup c, false) :: shown

/-- The displayed characters of a text with their points, leftmost first (R152). -/
def scanText (text : List Byte) : List (GlyphIndex × Bool) := (text.foldl scanChar []).reverse

/-- The i-th displayed character sits on position n - 1 - i (R154). -/
def textFrames (shown : List (GlyphIndex × Bool)) : FrameSeq :=
  shown.mapIdx fun i cell =>
    { g := cell.1, pos := BitVec.ofNat 2 (shown.length - 1 - i), dp := cell.2 }

/-- FMTSTR (R152). -/
def fmtStr (text : List Byte) : Formatted :=
  match textSignal (scanText text).length with
  | some sig => .raised sig
  | none => .frames (textFrames (scanText text))

end Sys2Proof.Machine
end

