-- ==== Sys2Proof/Machine/State.lean ====
section
/-! DEFINITION. The state of the machine (R20, R32, R50, R68, R96, R99), its reset value (R34, R260), and the
reasons a step can stop. -/

namespace Sys2Proof.Machine

/-- `PHASE` (R27): IDLE except while a print is driving the display. -/
inductive Phase where
  | idle
  | drive
deriving DecidableEq, Repr

/-- The whole machine as plain data. -/
structure State where
  /-- `REFRESH_RATE`, the refresh window: an unsigned count of milliseconds of `W_T` bits (R25), a number below 2^`W_T`
  (MachineInvariant). -/
  refreshRate : Nat
  /-- `POLARITY` (R26). -/
  polarity : Polarity
  /-- `CONSTRUCTED` (R27). -/
  constructed : Bool
  /-- `FG[0..3]`, the GlyphIndex of frame k (R21). -/
  fg : Vector GlyphIndex 4
  /-- `FP[0..3]`, the Position of frame k (R21). -/
  fp : Vector Position 4
  /-- `FD[0..3]`, the point flag of frame k (R21). -/
  fd : Vector Bool 4
  /-- `NDIG`, the number of frames (R21). -/
  ndig : BitVec 3
  /-- `SCAN`, the index of the frame committed next (R28). -/
  scan : BitVec 2
  /-- `T_START`, the clock sample taken when the drive began (R29), a number below 2^`W_T` (MachineInvariant). -/
  tStart : Nat
  /-- `PHASE` (R27). -/
  phase : Phase
  /-- `TXLOG`, every word committed, oldest first (R32, R66). -/
  txlog : List Word16
  /-- `LATCH`, the last word committed (R32, R66). -/
  latch : Word16
  /-- The command port: bytes the host has sent and the CORE has not taken (R96; log 4). -/
  port : List Byte
  /-- The response port: bytes the CORE has answered, oldest first (R99; log 9). -/
  response : List Byte
  /-- The model's own: the unwrapped time of the latest clock sample, tau of R68 (log 1). -/
  trueTime : Nat
  /-- The model's own: the number of clock samples taken (log 1). -/
  nowCalls : Nat
  /-- The model's own: the clock answers given ahead, each the milliseconds before the next sample (log 1). -/
  advances : List Nat
  /-- The parameters an implementation sets (R6), the content of the space GLYPH among them; no step writes them (log 3). -/
  config : Config
deriving DecidableEq, Repr

/-- The faults of the machine: NONE. "The source defines no trap, no fault code and no halted state" (R10), so
no constructor, and nothing raises one (safe: no claim can rest on a fault). -/
inductive Fault where
deriving DecidableEq, Repr

/-- Why the spec gives a situation no meaning (R10 c). Every one but `textAboveMax` (log 23) is the spec's own "refuse" treatment of
93_implementation_defined.md, and each leaves the state as it was (log 6). -/
inductive Refusal where
  /-- Raised by no arm: every instruction has its meaning. The host's name for an arm without one. Safe. -/
  | notModelled (mnemonic : String)
  /-- Any operation but CONSTRUCT while `CONSTRUCTED` = 0 (R210, U11): raised by `whenReady`. Safe. -/
  | notConstructed
  /-- CONSTRUCT while `CONSTRUCTED` = 1 (R210, U11): raised by `execConstruct`. Safe. -/
  | alreadyConstructed
  /-- An operation while `PHASE` = DRIVE (R210, U12): raised by `whenReady` and `execConstruct`; `step` never
  issues one. Safe. -/
  | driving
  /-- PRINTF with a NaN operand (R105, U4): raised by `execPrintf` and by the command port. Safe. -/
  | floatIsNaN
  /-- PRINTF with dpp above 4 (R105, U5): raised by `execPrintf` and by the command port. Safe. -/
  | reservedDpp
  /-- PRINTS with more than `STR_MAX` characters, outside the operand's range (R94; log 23): raised by `execPrints`, and
  with `STR_MAX` = 255 by no text the port can spell. Safe. -/
  | textAboveMax
  /-- CONSTRUCT with a polarity byte above 0x01 (R105, U18): raised by the command port. Safe. -/
  | reservedPolarity
  /-- Opcode byte 0x06 to 0xFF (R104, U7): raised by the command port. Safe. -/
  | reservedOpcode
  /-- A drive whose frame holds a GlyphIndex 29 to 31 (U6): raised by `driveIteration`, in no state a run
  reaches (R23). Safe. -/
  | noSuchGlyph
deriving DecidableEq, Repr

/-- What one step of the machine answers. -/
abbrev Outcome := Host.Outcome State Fault Refusal

/-- Right after hardware reset (R34, R260): `CONSTRUCTED` = 0, `PHASE` = IDLE, `TXLOG` empty. Every other
register is "unspecified" there; the values here are DESIGN CHOICES (log 2, 3), and no operation reads one
before it is written. -/
def State.reset : State :=
  { refreshRate := 0
    polarity := .anode
    constructed := false
    fg := Vector.replicate 4 0
    fp := Vector.replicate 4 0
    fd := Vector.replicate 4 false
    ndig := 0
    scan := 0
    tStart := 0
    phase := .idle
    txlog := []
    latch := 0
    port := []
    response := []
    trueTime := 0
    nowCalls := 0
    advances := []
    config := defaultConfig }

end Sys2Proof.Machine
end

