-- ==== Sys2Proof/Machine/Ops.lean ====
section
/-! DEFINITION. The named operations over the state: the two channels (`Commit` R62, `Now` R67), the frame
registers (R21), the start and end of a drive (R186, R192), acceptance (R210), the error path (R234), and
what the outside world can do (R96, R262). -/

namespace Sys2Proof.Machine

/-! ## Channels -/

/-- `Commit(w)` (R62, R66). -/
def commit (w : Word16) (s : State) : State := { s with txlog := s.txlog ++ [w], latch := w }

/-- The milliseconds before the next clock sample: the next answer given ahead, else a free value (log 1). -/
def nextAdvance (s : State) : Nat := s.advances.head?.getD (Config.clockAdvance s.nowCalls)

/-- The state after one clock sample: tau moves on by a natural number (R68). -/
def tick (s : State) : State :=
  { s with trueTime := s.trueTime + nextAdvance s, nowCalls := s.nowCalls + 1, advances := s.advances.tail }

/-- The value of a clock sample: tau modulo 2^`W_T` (R67, R68). -/
def sample (s : State) : Nat := toWidth s.config.wT (s.trueTime + nextAdvance s)

/-- `Now()`: one sample of the clock, and the state after it. -/
def now (s : State) : Nat × State := (sample s, tick s)

/-- Four bytes on the response port, least significant first (R99). -/
def respond (w : Word) (s : State) : State := { s with response := s.response ++ bytesOfWord w }

/-! ## The frame registers -/

/-- Frame k of the frame buffer (R21). -/
def State.frame (s : State) (k : BitVec 2) : DigitFrame :=
  { g := s.fg[k.toNat], pos := s.fp[k.toNat], dp := s.fd[k.toNat] }

/-- Write a FrameSeq into `FG`, `FP`, `FD` and `NDIG` (R140). Entries at or above the new `NDIG` keep what they
held (R21: they have no meaning; log 12). -/
def loadFrames (frames : FrameSeq) (s : State) : State :=
  { s with
    fg := Vector.ofFn fun k : Fin 4 => (frames[k.val]?).elim s.fg[k.val] DigitFrame.g
    fp := Vector.ofFn fun k : Fin 4 => (frames[k.val]?).elim s.fp[k.val] DigitFrame.pos
    fd := Vector.ofFn fun k : Fin 4 => (frames[k.val]?).elim s.fd[k.val] DigitFrame.dp
    ndig := BitVec.ofNat 3 frames.length }

/-! ## The drive -/

/-- The start of DRIVE (R185, R186): one sample kept in `T_START`, `SCAN` at 0. -/
def beginDrive (s : State) : State :=
  { (now s).2 with phase := .drive, tStart := (now s).1, scan := 0 }

/-- The end of DRIVE (R192): `PHASE` back to IDLE; nothing is committed to blank the display. -/
def endDrive (s : State) : State := { s with phase := .idle }

/-! ## The error path -/

/-- The text a signal shows (R233, R234): "OVF " or "NEG " in the codes of R84. -/
def errorText : Signal → List Byte
  | .overflow => [0x4F, 0x56, 0x46, 0x20]
  | .sign => [0x4E, 0x45, 0x47, 0x20]

/-- The frames of the error text, by FMTSTR, which cannot raise on four characters (R234, R239). -/
def errorFrames (sig : Signal) : FrameSeq :=
  match fmtStr (errorText sig) with
  | .frames seq => seq
  | .raised _ => []

/-- The write of `DEFAULT_REFRESH`, the first thing the error path does (R234). -/
def resetRate (s : State) : State := { s with refreshRate := s.config.defaultRefresh }

/-- ERRPATH (R234), this machine's taking of an exception: the rate goes to its default first, then the error
text is formatted, then the drive begins. Nothing is saved (R235). -/
def errPath (sig : Signal) (s : State) : State := beginDrive (loadFrames (errorFrames sig) (resetRate s))

/-- The rest of a print after its formatter (R214 to R216, R219): drive the frames, or take the error path. -/
def showFormatted (r : Formatted) (s : State) : State :=
  match r with
  | .frames seq => beginDrive (loadFrames seq s)
  | .raised sig => errPath sig s

/-! ## Acceptance -/

/-- Acceptance of every operation but CONSTRUCT (R210): `PHASE` = IDLE and `CONSTRUCTED` = 1. It is tested before
the operands, so a reserved operand met in the wrong phase or lifecycle is refused here for the latter; which of
two reasons names a refusal is the model's choice (DESIGN CHOICE, log 22). -/
def whenReady (s : State) (meaning : State → Outcome) : Outcome :=
  match s.phase with
  | .drive => .refused .driving
  | .idle => if s.constructed then meaning s else .refused .notConstructed

/-! ## What the outside world can do -/

/-- The host sends bytes on the command port (R96): the port takes them in IDLE and nothing in DRIVE. -/
def State.hostSend (bytes : List Byte) (s : State) : State :=
  match s.phase with
  | .idle => { s with port := s.port ++ bytes }
  | .drive => s

/-- A hardware reset at any moment (R260, R262): `CONSTRUCTED` = 0, `PHASE` = IDLE; a running drive is
abandoned, the words already committed stay, no further word is committed. Every other register is
unspecified after it: taken from `any`, an argument no rule constrains, within the width it has (log 11). The platform (ports, clock,
parameters) is not the CORE's and stays. -/
def State.hardwareReset (s any : State) : State :=
  { s with
    constructed := false, phase := .idle,
    refreshRate := toWidth s.config.wT any.refreshRate, polarity := any.polarity,
    fg := any.fg, fp := any.fp, fd := any.fd, ndig := any.ndig, scan := any.scan,
    tStart := toWidth s.config.wT any.tStart }

end Sys2Proof.Machine
end

