-- ==== Sys2Proof/Machine/CommandPort.lean ====
section
/-! DEFINITION. What a step in IDLE does with the bytes of the command port (R96, R104 to R106). -/

namespace Sys2Proof.Machine

/-- The port holds no complete operation: the CORE waits, nothing changes (R106, U25; log 4). -/
def waitForHost (s : State) : Outcome := .next s

/-- The reason an invalid operation is refused by (R104, R105). -/
def refusalOf : DecodeError → Refusal
  | .reservedOpcode => .reservedOpcode
  | .reservedPolarity => .reservedPolarity
  | .floatIsNaN => .floatIsNaN
  | .reservedDpp => .reservedDpp

/-- An invalid operation is refused (R104, R105), whatever the lifecycle: on the port a reserved opcode or operand
names the refusal also where R210 would refuse (DESIGN CHOICE, log 22). -/
def refuseInvalid (e : DecodeError) : Outcome := .refused (refusalOf e)

/-- The CORE has taken the bytes of one operation; `rest` is still to come (R96). -/
def takeOperation (rest : List Byte) (s : State) : State := { s with port := rest }

/-- What the host does after a refusal (log 6): it withdraws the refused operation's bytes, and everything
else is as it was ("refused ... state unchanged", 95_test_vectors.md H3 and P4). -/
def State.withdraw (s : State) : State :=
  { s with port := s.port.drop ((operationLength s.port).getD 0) }

/-- The state whose next step reads these bytes as its operation: they stand at the head of the port, and
`PHASE` is IDLE, since only then does a step read the port (log 5). -/
def State.offer (bytes : List Byte) (s : State) : State :=
  { s with port := bytes ++ s.port, phase := .idle }

end Sys2Proof.Machine
end

