-- ==== Sys2Proof/Machine/Print.lean ====
section
/-! DEFINITION. The print operations PRINTI (R214), PRINTF (R215) and PRINTS (R216): each formats its operand and
starts the drive, or takes the error path; the drive itself is the steps that follow (R185; log 7). -/

namespace Sys2Proof.Machine

/-- PRINTI (R214): the operand is signed (R91), decimalPointPosition 0. -/
def execPrinti (v : Word) (s : State) : Outcome :=
  whenReady s fun s => .next (showFormatted (fmtInt s.config (integerValue s.config.xlenI v) 0) s)

/-- PRINTF (R215): a NaN and a dpp above 4 are refused before any test (R105, R237). -/
def execPrintf (f : Word) (dpp : Byte) (s : State) : Outcome :=
  whenReady s fun s =>
    if isNaN f then .refused .floatIsNaN
    else if 4 < dpp.toNat then .refused .reservedDpp
    else .next (showFormatted (fmtFix s.config f dpp.toNat) s)

/-- PRINTS (R216): the operand has at most `STR_MAX` characters (R94), and a longer one is refused as any operand out of
its range is (log 23). -/
def execPrints (text : List Byte) (s : State) : Outcome :=
  whenReady s fun s =>
    if s.config.strMax < text.length then .refused .textAboveMax
    else .next (showFormatted (fmtStr text) s)

end Sys2Proof.Machine
end

