-- ==== Sys2Proof/Machine/System.lean ====
section
/-! DEFINITION. The system operations CONSTRUCT (R211), SETRATE (R212) and GETRATE (R213). -/

namespace Sys2Proof.Machine

/-- CONSTRUCT (R211), accepted in IDLE and while `CONSTRUCTED` = 0 (R210). It samples no clock and commits
nothing. -/
def execConstruct (pol : Polarity) (s : State) : Outcome :=
  match s.phase with
  | .drive => .refused .driving
  | .idle =>
    if s.constructed then .refused .alreadyConstructed
    else .next { s with polarity := pol, refreshRate := s.config.defaultRefresh, constructed := true }

/-- SETRATE (R212): `REFRESH_RATE` takes the `W_T`-bit number the four bytes hold (R95; log 23). -/
def execSetrate (ms : Word) (s : State) : Outcome :=
  whenReady s fun s => .next { s with refreshRate := toWidth s.config.wT ms.toNat }

/-- GETRATE (R213): answers `REFRESH_RATE` on the response port (R99) and changes nothing else. Its
four bytes are the low 32 bits (log 23). -/
def execGetrate (s : State) : Outcome :=
  whenReady s fun s => .next (respond (BitVec.ofNat 32 s.refreshRate) s)

end Sys2Proof.Machine
end

