-- ==== Sys2Proof/Machine/Dispatch.lean ====
section
/-! DEFINITION. One arm per operation. -/

namespace Sys2Proof.Machine

def exec (i : Instr) (s : State) : Host.Outcome State Fault Refusal :=
  match i with
  | .construct pol => Sys2Proof.Machine.execConstruct pol s
  | .setrate ms => Sys2Proof.Machine.execSetrate ms s
  | .getrate => Sys2Proof.Machine.execGetrate s
  | .printi v => Sys2Proof.Machine.execPrinti v s
  | .printf f dpp => Sys2Proof.Machine.execPrintf f dpp s
  | .prints text => Sys2Proof.Machine.execPrints text s

end Sys2Proof.Machine
end

