-- ==== Sys2Proof/Machine/Multiplexer.lean ====
section
/-! DEFINITION. The Multiplexer: unit DRIVE (R185), one loop iteration a step of the machine (log 7). -/

namespace Sys2Proof.Machine

/-- The elapsed time between two samples of a `w`-bit clock, in the wrap-safe form `(t - start) mod 2^w` (R69, R188). -/
def elapsed (w t start : Nat) : Nat := (t + 2 ^ w - start) % 2 ^ w

/-- The deadline test at width `w` (R188): the elapsed time exceeds the rate, strictly. -/
def deadlinePassed (w rate t start : Nat) : Bool := decide (rate < elapsed w t start)

/-- The deadline test of the drive (R188): the window has passed. -/
def windowPassed (t : Nat) (s : State) : Bool := deadlinePassed s.config.wT s.refreshRate t s.tStart

/-- `SCAN <- (SCAN + 1) mod NDIG` (R28, R185). -/
def nextScan (s : State) : BitVec 2 := BitVec.ofNat 2 ((s.scan.toNat + 1) % s.ndig.toNat)

/-- The frame step (R189): commit the word of the frame at `SCAN`, then advance `SCAN`. -/
def commitFrame (w : Word16) (s : State) : State := { commit w s with scan := nextScan s }

/-- One iteration of the loop of DRIVE with the clock sample t (R185, R187): test the deadline, and if it has
not passed commit exactly one frame; an empty sequence commits nothing (R191). -/
def driveIteration (t : Nat) (s : State) : Outcome :=
  if windowPassed t s then .next (endDrive s)
  else if s.ndig = 0 then .next s
  else
    match frameWord s.config.glyphRom s.polarity (s.frame s.scan) with
    | some w => .next (commitFrame w s)
    | none => .refused .noSuchGlyph

/-- A step in DRIVE: one clock sample, then one iteration (R187). -/
def driveStep (s : State) : Outcome := driveIteration (now s).1 (now s).2

end Sys2Proof.Machine
end

