-- ==== Sys2Proof/Machine/Step.lean ====
section
/-! DEFINITION. One step of the machine: in DRIVE an iteration of the multiplexer (R187), in IDLE the next
operation of the command port (R96, R210). -/

namespace Sys2Proof.Machine

/-- The step. A refusal is named by the first test that fails: the bytes are decoded before acceptance is tested, so
a reserved opcode or operand (U4, U5, U7, U18) names it before the lifecycle (U11) does. The spec refuses both and
orders neither: DESIGN CHOICE, log 22. -/
def step (s : State) : Host.Outcome State Fault Refusal :=
  match s.phase with
  | .drive => driveStep s
  | .idle =>
    match decode s.port with
    | .operation i rest => exec i (takeOperation rest s)
    | .incomplete => waitForHost s
    | .invalid e => refuseInvalid e

/-- The state whose next step runs the instruction of a word of spec/opcode_table.json (log 5). -/
def State.withFetchWord (s : State) (nbits w : Nat) : State := s.offer (tableOperation nbits w)

end Sys2Proof.Machine
end

