-- ==== Sys2Proof/Machine/Adapter.lean ====
section
/-! DEFINITION. The contract of the transport adapter (R62) and the spec's reading of its two wire orders (R58,
D23). No rule of the CORE reads it: it is a function of what the CORE committed (log 17). -/

namespace Sys2Proof.Machine

/-- What the adapter does on the serial bus for one commit (R62). -/
inductive WireEvent where
  | latchLow
  | bit (b : Bool)
  | latchHigh
deriving DecidableEq, Repr

/-- Native mode: the word leaves with bit 0 first (R58). -/
def bitsLsbFirst (w : Word16) : List Bool := (List.range 16).map w.getLsbD

/-- How a most-significant-bit-first bus sends one byte. -/
def byteMsbFirst (b : Byte) : List Bool := (List.range 8).map fun i => b.getLsbD (7 - i)

/-- Manual-reversal mode: the two bytes given to the bus, low byte first, each through BITREV (R58, R126). -/
def reversedBytes (w : Word16) : List Byte := [bitrev (selectByte w), bitrev (segmentByte w)]

/-- The 16 bits on the wire, in order (R58). -/
def wireBits (mode : AdapterMode) (w : Word16) : List Bool :=
  match mode with
  | .nativeLsbFirst => bitsLsbFirst w
  | .msbFirstManualReversal => (reversedBytes w).flatMap byteMsbFirst

/-- One commit on the bus (R62): latch low, 16 bits, latch high. -/
def commitEvents (mode : AdapterMode) (w : Word16) : List WireEvent :=
  .latchLow :: ((wireBits mode w).map .bit ++ [.latchHigh])

/-- Everything the adapter did for the words of `TXLOG`, in order (R63). -/
def State.wire (s : State) : List WireEvent := s.txlog.flatMap (commitEvents s.config.adapterMode)

end Sys2Proof.Machine
end

