-- ==== Sys2Proof/Safety.lean ====
section
/-! DEFINITION. The terms claims are stated in: the exact value of a float, the invariant of the machine, what
it is to begin a drive, the words a drive shows, and the complemented machine. -/

namespace Sys2Proof.Machine

/-! ## The value of a float operand (R92) -/

/-- The pattern is finite: e is not 255. -/
def f32Finite (f : Word) : Bool := f32Exponent f != 255

/-- `val(f)`, the exact rational value of a finite pattern, as R92 writes it. -/
def f32Value (f : Word) : ℚ :=
  (if f32Sign f then -1 else 1) *
    (if f32Exponent f = 0 then (f32Fraction f : ℚ) * (2 : ℚ) ^ (-149 : ℤ)
     else ((2 : ℚ) ^ 23 + f32Fraction f) * (2 : ℚ) ^ ((f32Exponent f : ℤ) - 150))

/-- The float limit of dpp: a finite, not negative value below 10^(4-dpp), the operand FMTFIX scales (R147,
R148). -/
def Scalable (f : Word) (dpp : Nat) : Prop :=
  f32Finite f = true ∧ 0 ≤ f32Value f ∧ f32Value f < (10 : ℚ) ^ (4 - dpp)

/-! ## The invariant (R23, R25, R28, R29, R66, R172) -/

/-- What R23 says of the frame buffer of a drive. -/
abbrev FramesLegal (s : State) : Prop :=
  s.ndig.toNat ≤ 4 ∧
  (∀ k : Fin 4, k.val < s.ndig.toNat → s.fg[k.val].toNat ≤ 28 ∧ s.fg[k.val] ≠ 11) ∧
  ((∀ k : Fin 4, k.val < s.ndig.toNat → s.fp[k.val].toNat = k.val) ∨
   (∀ k : Fin 4, k.val < s.ndig.toNat → s.fp[k.val].toNat = s.ndig.toNat - 1 - k.val))

/-- The word selects exactly one position, under one of the two polarities (R88, R172, R198). -/
abbrev SelectsOneDigit (w : Word16) : Prop :=
  ∃ pos : Position, selectByte w = lowByte pos ∨ selectByte w = ~~~(lowByte pos)

/-- The registers of `W_T` bits hold numbers of that width, and so does the parameter `DEFAULT_REFRESH`, which is written
into one (R25, R29). -/
abbrev TimesFit (s : State) : Prop :=
  s.refreshRate < 2 ^ s.config.wT ∧ s.tStart < 2 ^ s.config.wT ∧ s.config.defaultRefresh < 2 ^ s.config.wT

/-- The invariant of the machine. -/
abbrev MachineInvariant (s : State) : Prop :=
  (s.phase = .drive → s.constructed = true) ∧
  (s.phase = .drive → FramesLegal s) ∧
  (s.phase = .drive → if s.ndig = 0 then s.scan = 0 else s.scan.toNat < s.ndig.toNat) ∧
  (∀ w ∈ s.txlog.getLast?, w = s.latch) ∧
  (∀ w ∈ s.txlog, SelectsOneDigit w) ∧
  TimesFit s

/-! ## Prints -/

/-- `t` is `s` with a drive of these frames begun and the rate register holding `rate`: the frames are in the
buffer, entries above them are untouched (the model's choice, log 12), one clock sample is taken and kept in `T_START`, `SCAN` is 0, `PHASE`
is DRIVE, and nothing else of the machine differs (R185, R186, R219, R235). -/
def DriveBegun (frames : FrameSeq) (rate : Nat) (s t : State) : Prop :=
  (∀ k : Fin 4, t.frame (BitVec.ofFin k) = (frames[k.val]?).getD (s.frame (BitVec.ofFin k))) ∧
  t = { s with
        refreshRate := rate, phase := .drive, scan := 0, ndig := BitVec.ofNat 3 frames.length,
        fg := t.fg, fp := t.fp, fd := t.fd,
        tStart := (now s).1, trueTime := (now s).2.trueTime, nowCalls := (now s).2.nowCalls,
        advances := (now s).2.advances }

/-- What the formatter of a print operation gives; none for the other operations (R214 to R216). -/
def printOf (cfg : Config) : Instr → Option Formatted
  | .construct _ => none
  | .setrate _ => none
  | .getrate => none
  | .printi v => some (fmtInt cfg (integerValue cfg.xlenI v) 0)
  | .printf f dpp => some (fmtFix cfg f dpp.toNat)
  | .prints text => some (fmtStr text)

/-- The frames a print shows: the formatter's, or those of the error text (R234). -/
def framesShown : Formatted → FrameSeq
  | .frames seq => seq
  | .raised sig => errorFrames sig

/-- The window a print drives with, which the rate register holds from then on (R217). -/
def windowOf (cfg : Config) (r : Formatted) (rate : Nat) : Nat :=
  match r with
  | .frames _ => rate
  | .raised _ => cfg.defaultRefresh

/-- The words `W[k]` of a frame sequence (R198). -/
def wordsOf (rom : Vector Byte 29) (pol : Polarity) (frames : FrameSeq) : List Word16 :=
  frames.map fun fr => (frameWord rom pol fr).getD 0

/-- The first c words of a drive over `W`: word j is `W[j mod n]`, and nothing for n = 0 (R198). -/
def cycleWords (W : List Word16) (c : Nat) : List Word16 :=
  if W.isEmpty then [] else (List.range c).map fun j => W.getD (j % W.length) 0

/-- `k` steps of the machine. -/
abbrev runSteps (k : Nat) (s : State) : Outcome := Host.Core.run Sys2Proof.core k s

/-- The decimal digits of a number, units first, with a lone 0 for 0 (R145). -/
def numeralDigits (N : Nat) : List Nat := if N = 0 then [0] else Nat.digits 10 N

/-- A text given by its leading points and its displayed characters, each with the number of points after
it (R152, R153). -/
def textOf (leading : Nat) (shown : List (Byte × Nat)) : List Byte :=
  List.replicate leading pointChar ++ shown.flatMap fun c => c.1 :: List.replicate c.2 pointChar

/-! ## Polarity (R175, R176) -/

/-- The other polarity. -/
def otherPolarity : Polarity → Polarity
  | .anode => .cathode
  | .cathode => .anode

/-- The same machine with the other polarity and every committed word complemented. -/
def State.complemented (s : State) : State :=
  { s with polarity := otherPolarity s.polarity, txlog := s.txlog.map (~~~·), latch := ~~~s.latch }

/-- An outcome with its next state, if it has one, replaced. -/
def mapNext (g : State → State) : Outcome → Outcome
  | .next t => .next (g t)
  | .fault r => .fault r
  | .refused r => .refused r

end Sys2Proof.Machine
end

