-- ==== Sys2Proof/Certificates/Slice0/Obligations.lean ====
section
/-! DEFINITION. The statements for the provers. -/

open Sys2Proof Sys2Proof.Machine

/-! ## Reset and the invariant -/

/-- R34, R260, R261 (spec decisions D20 to D22): after hardware reset `CONSTRUCTED` = 0, `PHASE` = IDLE and
`TXLOG` is empty; the only operation executed is CONSTRUCT. That an operation with a reserved operand is refused
by this name is the model's choice (log 22). -/
def Obligations.ResetAwaitsConstruct : Prop :=
  State.reset.constructed = false ∧ State.reset.phase = .idle ∧ State.reset.txlog = [] ∧
  (∀ pol, ∃ t, exec (.construct pol) State.reset = .next t) ∧
  ∀ i : Instr, (∀ pol, i ≠ .construct pol) → exec i State.reset = .refused .notConstructed

/-- The invariant holds after hardware reset. -/
def Obligations.InvariantHoldsAtReset : Prop := MachineInvariant State.reset

/-- R23, R25, R28, R29, R66, R172: every step keeps the invariant, from every state that has it. -/
def Obligations.StepKeepsInvariant : Prop :=
  ∀ s t : State, MachineInvariant s → step s = .next t → MachineInvariant t

/-! ## The command port -/

/-- R106: decode after encode is the identity on valid operations, whatever bytes follow. -/
def Obligations.DecodeOfEncodeIsTheOperation : Prop :=
  ∀ (i : Instr) (rest : List Byte), i.wellFormed = true → decode (encode i ++ rest) = .operation i rest

/-- R106: encode after decode is the identity, and what is decoded is valid. -/
def Obligations.DecodedBytesSpellTheOperation : Prop :=
  ∀ (bytes : List Byte) (i : Instr) (rest : List Byte),
    decode bytes = .operation i rest → i.wellFormed = true ∧ bytes = encode i ++ rest

/-- R106: an operation with fewer bytes than its length is incomplete. -/
def Obligations.ProperPrefixIsIncomplete : Prop :=
  ∀ (i : Instr) (k : Nat), i.wellFormed = true → k < (encode i).length → decode ((encode i).take k) = .incomplete

/-- Words written out from R97 to R102 decode to their operations. -/
def Obligations.SpecByteSequencesDecode : Prop :=
  decode [0x00, 0x01] = .operation (.construct .cathode) [] ∧
  decode [0x01, 0xFA, 0x00, 0x00, 0x00] = .operation (.setrate 250) [] ∧
  decode [0x02] = .operation .getrate [] ∧
  decode [0x03, 0xF6, 0xFF, 0xFF, 0xFF] = .operation (.printi (-10)) [] ∧
  decode [0x04, 0x1F, 0x85, 0x45, 0x41, 0x02] = .operation (.printf 0x4145851F 2) [] ∧
  decode [0x05, 0x03, 0x4B, 0x20, 0x58] = .operation (.prints [0x4B, 0x20, 0x58]) []

/-- R104, R105: a reserved opcode, a reserved polarity byte, a NaN and a dpp above 4 are refused by the step,
each under its own name, before construction and after. A NaN is named before a dpp above 4 (log 14), and an operand
before the lifecycle (log 22): the model's choices. -/
def Obligations.ReservedEncodingsAreRefused : Prop :=
  ∀ (s : State) (rest : List Byte), s.phase = .idle →
    (∀ op : Byte, 6 ≤ op.toNat → s.port = op :: rest → step s = .refused .reservedOpcode) ∧
    (∀ pp : Byte, 2 ≤ pp.toNat → s.port = 0x00 :: pp :: rest → step s = .refused .reservedPolarity) ∧
    (∀ (f : Word) (dd : Byte), isNaN f = true → s.port = 0x04 :: (bytesOfWord f ++ dd :: rest) →
      step s = .refused .floatIsNaN) ∧
    (∀ (f : Word) (dd : Byte), isNaN f = false → 5 ≤ dd.toNat → s.port = 0x04 :: (bytesOfWord f ++ dd :: rest) →
      step s = .refused .reservedDpp)

/-- R96: in IDLE a step runs the operation at the front of the port, its bytes taken. -/
def Obligations.StepRunsTheDecodedOperation : Prop :=
  ∀ (s : State) (i : Instr) (rest : List Byte), s.phase = .idle → i.wellFormed = true → s.port = encode i ++ rest →
    step s = exec i { s with port := rest }

/-- R106 (U25): a step on an incomplete operation waits and changes nothing (the model's reading, log 4). -/
def Obligations.IncompleteOperationWaits : Prop :=
  ∀ (s : State) (i : Instr) (k : Nat), s.phase = .idle → i.wellFormed = true → k < (encode i).length →
    s.port = (encode i).take k → step s = .next s

/-- R96, R187: in DRIVE a step is one loop iteration with one clock sample, and reads no byte of the port.
One step an iteration is the model's granularity (log 7). -/
def Obligations.DrivingStepLeavesThePort : Prop :=
  ∀ (s : State) (port : List Byte), s.phase = .drive →
    step s = driveIteration (now s).1 (now s).2 ∧
    step { s with port := port } = mapNext (fun t => { t with port := port }) (step s) ∧
    ∀ t, step s = .next t → t.port = s.port ∧ t.nowCalls = s.nowCalls + 1

/-- R210 (spec decision D20, D22): CONSTRUCT only while `CONSTRUCTED` = 0, every other operation only while it
is 1, and all only in IDLE; an operation issued otherwise is refused. That exec names these reasons before a
reserved operand is the model's choice (log 22). -/
def Obligations.AcceptanceRule : Prop :=
  (∀ (i : Instr) (s : State), s.phase = .drive → exec i s = .refused .driving) ∧
  (∀ (pol : Polarity) (s : State), s.phase = .idle → s.constructed = true →
    exec (.construct pol) s = .refused .alreadyConstructed) ∧
  (∀ (i : Instr) (s : State), s.phase = .idle → s.constructed = false → (∀ pol, i ≠ .construct pol) →
    exec i s = .refused .notConstructed) ∧
  (∀ (i : Instr) (s : State), s.phase = .idle → i.wellFormed = true → i.withinLimits s.config = true →
    ((∃ t, exec i s = .next t) ↔ (s.constructed = false ↔ ∃ pol, i = .construct pol)))

/-! ## System operations -/

/-- R211: CONSTRUCT, its completion and its frame; `DEFAULT_REFRESH` is 10000 in the reset state (R6). -/
def Obligations.ConstructWritesTheControlRegisters : Prop :=
  State.reset.config.defaultRefresh = 10000 ∧ ∀ (pol : Polarity) (s : State), s.phase = .idle → s.constructed = false →
    exec (.construct pol) s = .next { s with polarity := pol, refreshRate := s.config.defaultRefresh, constructed := true }

/-- R212: SETRATE, its completion and its frame. Every value is accepted, and one of `W_T` bits, which the operand is
(R95), becomes the rate. -/
def Obligations.SetrateWritesTheRateAlone : Prop :=
  ∀ (ms : Word) (s : State), s.phase = .idle → s.constructed = true →
    (∃ t, exec (.setrate ms) s = .next t) ∧
    (ms.toNat < 2 ^ s.config.wT → exec (.setrate ms) s = .next { s with refreshRate := ms.toNat })

/-- R213, R99: GETRATE answers the rate, least significant byte first, and changes nothing else. The responses as
one list of every byte answered are the model's form of the response port (log 9); a `W_T` above 32 answers the low
32 bits (log 23). -/
def Obligations.GetrateAnswersTheRate : Prop :=
  ∀ s : State, s.phase = .idle → s.constructed = true →
    ∃ b0 b1 b2 b3 : Byte,
      exec .getrate s = .next { s with response := s.response ++ [b0, b1, b2, b3] } ∧
      s.refreshRate % 2 ^ 32 = b0.toNat + 256 * b1.toNat + 65536 * b2.toNat + 16777216 * b3.toNat ∧
      (s.config.wT ≤ 32 → MachineInvariant s → s.refreshRate % 2 ^ 32 = s.refreshRate)

/-! ## Print operations: what they show, where they complete, what they leave alone -/

/-- R214, R145: an integer 0 to 9999 begins a drive of its decimal numeral, units digit first on position 0,
with no point but the one `POINT_AT_DPP0` asks for. -/
def Obligations.PrintiDrivesTheNumeral : Prop :=
  ∀ (v : Word) (s : State), s.phase = .idle → s.constructed = true →
    0 ≤ integerValue s.config.xlenI v → integerValue s.config.xlenI v ≤ 9999 →
    ∃ t, exec (.printi v) s = .next t ∧
      DriveBegun ((numeralDigits (integerValue s.config.xlenI v).toNat).mapIdx fun k d =>
        { g := BitVec.ofNat 5 d, pos := BitVec.ofNat 2 k, dp := k == 0 && s.config.pointAtDpp0 }) s.refreshRate s t

/-- R214, R231, R232, R234: every other integer takes the error path: "NEG " below 0, "OVF " above 9999, with
the rate at its default first. -/
def Obligations.PrintiOutOfRangeTakesTheErrorPath : Prop :=
  ∀ (v : Word) (s : State), s.phase = .idle → s.constructed = true →
    (integerValue s.config.xlenI v < 0 → ∃ t, exec (.printi v) s = .next t ∧
      DriveBegun [⟨21, 3, false⟩, ⟨14, 2, false⟩, ⟨16, 1, false⟩, ⟨27, 0, false⟩] s.config.defaultRefresh s t) ∧
    (9999 < integerValue s.config.xlenI v → ∃ t, exec (.printi v) s = .next t ∧
      DriveBegun [⟨0, 3, false⟩, ⟨25, 2, false⟩, ⟨15, 1, false⟩, ⟨27, 0, false⟩] s.config.defaultRefresh s t)

/-- R215, R146, R142, R143: a float below the limit of its dpp, whose scaled value N (the numerics field's) is at
most 9999, begins a drive of N's digits down to position dpp, the point on position dpp when it is 1 to 3. -/
def Obligations.PrintfDrivesTheScaledNumeral : Prop :=
  ∀ (f : Word) (dpp : Byte) (s : State), s.phase = .idle → s.constructed = true →
    dpp.toNat ≤ 4 → Scalable f dpp.toNat → scaleRound s.config.numerics f dpp.toNat ≤ 9999 →
    ∃ t, exec (.printf f dpp) s = .next t ∧
      DriveBegun ((List.range (min 4 (max (dpp.toNat + 1)
          (numeralDigits (scaleRound s.config.numerics f dpp.toNat)).length))).map fun k =>
        { g := BitVec.ofNat 5 (scaleRound s.config.numerics f dpp.toNat / 10 ^ k % 10), pos := BitVec.ofNat 2 k,
          dp := k == dpp.toNat && (k != 0 || s.config.pointAtDpp0) }) s.refreshRate s t

/-- R215, R147, R149: the error path of PRINTF. SIGN: -infinity or a value below 0. OVERFLOW: +infinity, a value
at or above 10^(4-dpp), or one that rounds above 9999. -/
def Obligations.PrintfOutOfRangeTakesTheErrorPath : Prop :=
  ∀ (f : Word) (dpp : Byte) (s : State), s.phase = .idle → s.constructed = true → dpp.toNat ≤ 4 →
    (f = 0xFF800000 ∨ (f32Finite f = true ∧ f32Value f < 0) → ∃ t, exec (.printf f dpp) s = .next t ∧
      DriveBegun [⟨21, 3, false⟩, ⟨14, 2, false⟩, ⟨16, 1, false⟩, ⟨27, 0, false⟩] s.config.defaultRefresh s t) ∧
    (f = 0x7F800000 ∨ (f32Finite f = true ∧ (10 : ℚ) ^ (4 - dpp.toNat) ≤ f32Value f) ∨
        (Scalable f dpp.toNat ∧ 9999 < scaleRound s.config.numerics f dpp.toNat) →
      ∃ t, exec (.printf f dpp) s = .next t ∧
      DriveBegun [⟨0, 3, false⟩, ⟨25, 2, false⟩, ⟨15, 1, false⟩, ⟨27, 0, false⟩] s.config.defaultRefresh s t)

/-- R105, R215: an ill-formed PRINTF is refused, and with the two statements above no form is left out: every
pattern that is not NaN, at every dpp up to 4, takes a next state. -/
def Obligations.PrintfIsRefusedOnReservedOperandsOnly : Prop :=
  ∀ (f : Word) (dpp : Byte) (s : State), s.phase = .idle → s.constructed = true →
    ((∃ t, exec (.printf f dpp) s = .next t) ↔ (isNaN f = false ∧ dpp.toNat ≤ 4)) ∧
    (isNaN f = true → exec (.printf f dpp) s = .refused .floatIsNaN) ∧
    (isNaN f = false → 4 < dpp.toNat → exec (.printf f dpp) s = .refused .reservedDpp)

/-- R216, R152 to R154: a text with at most four characters other than '.' begins a drive of their glyphs, the
leftmost first on the leftmost of the positions n-1 to 0, a point on each that is followed by one. -/
def Obligations.PrintsDrivesTheCharacters : Prop :=
  ∀ (leading : Nat) (shown : List (Byte × Nat)) (s : State), s.phase = .idle → s.constructed = true →
    (∀ c ∈ shown, c.1 ≠ 0x2E) → shown.length ≤ 4 → (textOf leading shown).length ≤ s.config.strMax →
    ∃ t, exec (.prints (textOf leading shown)) s = .next t ∧
      DriveBegun (shown.mapIdx fun i c =>
        { g := lookup c.1, pos := BitVec.ofNat 2 (shown.length - 1 - i), dp := c.2 != 0 }) s.refreshRate s t

/-- R216, R152: a text with more than four characters other than '.' takes the error path with "OVF "; and every
text is of the form these two statements speak of. -/
def Obligations.PrintsTooLongTakesTheErrorPath : Prop :=
  (∀ (text : List Byte) (s : State), s.phase = .idle → s.constructed = true →
    text.length ≤ s.config.strMax → 4 < (text.filter (· != 0x2E)).length →
    ∃ t, exec (.prints text) s = .next t ∧
      DriveBegun [⟨0, 3, false⟩, ⟨25, 2, false⟩, ⟨15, 1, false⟩, ⟨27, 0, false⟩] s.config.defaultRefresh s t) ∧
  (∀ text : List Byte, ∃ (leading : Nat) (shown : List (Byte × Nat)),
    text = textOf leading shown ∧ (∀ c ∈ shown, c.1 ≠ 0x2E) ∧ shown.length = (text.filter (· != 0x2E)).length)

/-- R235: what the entry of the error path changes, saves and leaves alone. -/
def Obligations.ErrorPathSavesNothing : Prop :=
  ∀ s : State,
    DriveBegun [⟨0, 3, false⟩, ⟨25, 2, false⟩, ⟨15, 1, false⟩, ⟨27, 0, false⟩] s.config.defaultRefresh s (errPath .overflow s) ∧
    DriveBegun [⟨21, 3, false⟩, ⟨14, 2, false⟩, ⟨16, 1, false⟩, ⟨27, 0, false⟩] s.config.defaultRefresh s (errPath .sign s)

/-! ## The Glyph Table -/

/-- R85, R52: LOOKUP is the table CHARMAP, total over the 256 codes, with the content of R85's table: the digits
by value, the letters of either case by the list, everything else blank. -/
def Obligations.LookupIsTheCharacterMap : Prop :=
  charmap.length = 256 ∧ ∀ c : Byte, charmap[c.toNat]? = some (lookup c) ∧
    (0x30 ≤ c.toNat → c.toNat ≤ 0x39 → (lookup c).toNat = c.toNat - 0x30) ∧
    (∀ k : Nat, k < 26 → c.toNat = 0x41 + k ∨ c.toNat = 0x61 + k →
      ([10, 8, 12, 13, 14, 15, 16, 17, 1, 18, 27, 19, 20, 21, 0, 22, 9, 23, 5, 24, 25, 25, 28, 27, 26, 2] :
        List GlyphIndex)[k]? = some (lookup c)) ∧
    (c.toNat < 0x30 ∨ (0x3A ≤ c.toNat ∧ c.toNat ≤ 0x40) ∨ (0x5B ≤ c.toNat ∧ c.toNat ≤ 0x60) ∨ 0x7B ≤ c.toNat →
      lookup c = 27)

/-- R121: LOOKUP is case-insensitive, and its image is 0 to 28 without 11. -/
def Obligations.LookupFoldsCaseAndMissesIndexEleven : Prop :=
  (∀ c : Byte, 0x61 ≤ c.toNat → c.toNat ≤ 0x7A → lookup c = lookup (c - 0x20)) ∧
  ∀ g : GlyphIndex, (∃ c : Byte, lookup c = g) ↔ (g.toNat ≤ 28 ∧ g ≠ 11)

/-- R124: BITREV puts bit 7-i at bit i, by two lookups in REV4: the reversed low nibble becomes the high nibble. -/
def Obligations.BitrevReversesTheBits : Prop :=
  ∀ b : Byte, (∀ i : Nat, i < 8 → (bitrev b).getLsbD i = b.getLsbD (7 - i)) ∧
    ∃ hi lo : BitVec 4, rev4[b.toNat % 16]? = some hi ∧ rev4[b.toNat / 16]? = some lo ∧
      (bitrev b).toNat = 16 * hi.toNat + lo.toNat

/-- R125: BITREV is an involution and commutes with NOT. -/
def Obligations.BitrevIsAnInvolution : Prop :=
  ∀ b : Byte, bitrev (bitrev b) = b ∧ bitrev (~~~b) = ~~~(bitrev b)

/-- R58 (spec decision D23): both adapter modes put the word's bits 0, 1, ..., 15 on the wire, in that order. -/
def Obligations.AdapterModesAgreeOnTheWire : Prop :=
  ∀ (mode : AdapterMode) (w : Word16), (wireBits mode w).length = 16 ∧
    ∀ i : Nat, i < 16 → (wireBits mode w)[i]? = some (w.getLsbD i)

/-! ## The Value Formatter -/

/-- R141: the four digits, each 0 to 9, whose weighted sum is N. -/
def Obligations.DigitsRecomposeTheInteger : Prop :=
  ∀ N : Nat, N ≤ 9999 →
    digit N 0 = N % 10 ∧ digit N 1 = N / 10 % 10 ∧ digit N 2 = N / 100 % 10 ∧ digit N 3 = N / 1000 % 10 ∧
    (∀ k : Nat, digit N k ≤ 9) ∧
    N = digit N 0 + 10 * digit N 1 + 100 * digit N 2 + 1000 * digit N 3

/-- R142: the closed form of the leading-zero suppression; the case dpp = 4 is the spec's decision D9. -/
def Obligations.CountClosedForm : Prop :=
  ∀ N dpp : Nat, N ≤ 9999 → dpp ≤ 4 →
    count (digit N) dpp = min 4 (max (dpp + 1) (numeralDigits N).length)

/-- R145: the laws of the integer path. -/
def Obligations.FmtIntSpellsTheDecimalNumeral : Prop :=
  ∀ (cfg : Config) (v : Int),
    (0 ≤ v → v ≤ 9999 → ∃ seq, fmtInt cfg v 0 = .frames seq ∧
      seq.map (fun fr => fr.g.toNat) = numeralDigits v.toNat ∧
      seq.map (fun fr => fr.pos.toNat) = List.range (numeralDigits v.toNat).length) ∧
    (9999 < v → fmtInt cfg v 0 = .raised .overflow) ∧
    (v < 0 → fmtInt cfg v 0 = .raised .sign)

/-- R147 (spec decision D4): the range tests of FMTFIX are those of the exact value; -0 is not negative. -/
def Obligations.FixedRangeTestsFollowTheExactValue : Prop :=
  ∀ (f : Word) (dpp : Nat), isNaN f = false → dpp ≤ 4 →
    (fixedSignal f dpp = some .sign ↔ (f = 0xFF800000 ∨ (f32Finite f = true ∧ f32Value f < 0))) ∧
    (fixedSignal f dpp = some .overflow ↔
      (f = 0x7F800000 ∨ (f32Finite f = true ∧ (10 : ℚ) ^ (4 - dpp) ≤ f32Value f))) ∧
    (fixedSignal f dpp = none ↔ Scalable f dpp)

/-- R148 (spec decision D3): the exact numerics is floor(val(f) * 10^dpp + 1/2), at most 10000, and 10000 exactly
when the scaled value is at or above 9999.5. -/
def Obligations.ExactScalingRoundsHalfUp : Prop :=
  ∀ (f : Word) (dpp : Nat), dpp ≤ 4 → Scalable f dpp →
    (scaleRound .exact f dpp : ℤ) = ⌊f32Value f * (10 : ℚ) ^ dpp + 1 / 2⌋ ∧
    scaleRound .exact f dpp ≤ 10000 ∧
    (scaleRound .exact f dpp = 10000 ↔ (9999.5 : ℚ) ≤ f32Value f * (10 : ℚ) ^ dpp)

/-- R151: the two numerics agree whenever the scaled value is farther than 2^-10 from every half-integer. -/
def Obligations.NumericsAgreeAwayFromTies : Prop :=
  ∀ (f : Word) (dpp : Nat), dpp ≤ 4 → Scalable f dpp →
    (∀ k : ℤ, (1 : ℚ) / 2 ^ 10 < |f32Value f * (10 : ℚ) ^ dpp - ((k : ℚ) + 1 / 2)|) →
    scaleRound .binary32PerOperation f dpp = scaleRound .exact f dpp

/-- R158: the shape of every FrameSeq a print's formatter returns. -/
def Obligations.FrameSequencesHaveTheirShape : Prop :=
  ∀ (cfg : Config) (i : Instr) (seq : FrameSeq), i.wellFormed = true → printOf cfg i = some (.frames seq) →
    seq.length ≤ 4 ∧
    (seq.map fun fr => fr.pos.toNat).Perm (List.range seq.length) ∧
    (∀ fr ∈ seq, fr.g.toNat ≤ 28 ∧ fr.g ≠ 11) ∧
    ((∀ text, i ≠ .prints text) → 1 ≤ seq.length ∧ (∀ fr ∈ seq, fr.g.toNat ≤ 9) ∧ seq.countP (·.dp) ≤ 1)

/-! ## The Frame Encoder -/

/-- R170 to R173: the bits of a TransferWord under each polarity, the ANODE inversion of the whole low byte by the
spec's decision D12. -/
def Obligations.EncodeWordBits : Prop :=
  ∀ (p : Byte) (pos : Position) (dp : Bool) (pol : Polarity) (i : Nat), i < 16 →
    (encodeWord p pos dp pol).getLsbD i =
      if 8 ≤ i then ((p.getLsbD (i - 8) || (i == 8 && dp)) != decide (pol = .cathode))
      else ((i == 4 + pos.toNat) != decide (pol = .anode))

/-- R175: the two polarities' words are complements on all 16 bits. -/
def Obligations.AnodeWordIsTheComplementOfTheCathodeWord : Prop :=
  ∀ (p : Byte) (pos : Position) (dp : Bool), encodeWord p pos dp .anode = ~~~(encodeWord p pos dp .cathode)

/-- R175, R176: polarity matters nowhere but in the words. The complemented machine takes the complemented step:
same outcome, same registers, every committed word complemented. -/
def Obligations.ComplementedMachineStepsAlike : Prop :=
  ∀ s : State, s.constructed = true → step s.complemented = mapNext State.complemented (step s)

/-! ## The Multiplexer -/

/-- R67, R68: a clock sample is the true time modulo 2^`W_T`, and the true time never goes back. -/
def Obligations.ClockSamplesNeverGoBack : Prop :=
  ∀ s : State, s.trueTime ≤ (now s).2.trueTime ∧ (now s).1 = (now s).2.trueTime % 2 ^ s.config.wT ∧
    ∀ d rest, s.advances = d :: rest → (now s).2.trueTime = s.trueTime + d ∧ (now s).2.advances = rest

/-- R187 to R189: in the window, one iteration commits exactly the word of the frame at `SCAN` and advances `SCAN`
modulo `NDIG`; nothing else changes but the clock's own fields. One step an iteration is the model's granularity
(log 7). -/
def Obligations.DriveCommitsTheScannedFrame : Prop :=
  ∀ (s : State) (p : Byte), MachineInvariant s → s.phase = .drive → s.ndig ≠ 0 →
    ((now s).1 + 2 ^ s.config.wT - s.tStart) % 2 ^ s.config.wT ≤ s.refreshRate →
    s.config.glyphRom[s.fg[s.scan.toNat].toNat]? = some p →
    step s = .next { (now s).2 with
      txlog := s.txlog ++ [encodeWord p s.fp[s.scan.toNat] s.fd[s.scan.toNat] s.polarity]
      latch := encodeWord p s.fp[s.scan.toNat] s.fd[s.scan.toNat] s.polarity
      scan := BitVec.ofNat 2 (if s.scan.toNat + 1 = s.ndig.toNat then 0 else s.scan.toNat + 1) }

/-- R23, R122: in a state with the invariant the frame at `SCAN` names a glyph, so a step in DRIVE always takes a
next state. -/
def Obligations.DriveNeverStops : Prop :=
  ∀ s : State, MachineInvariant s → s.phase = .drive → ∃ t, step s = .next t

/-- R188, R192: at the first sample past the window the drive ends, and nothing changes but `PHASE` and the
clock's own fields; that the frame registers, `SCAN` and `T_START` keep their values is the model's choice (log 12),
and one step an iteration its granularity (log 7). -/
def Obligations.DriveEndsPastTheWindow : Prop :=
  ∀ s : State, s.phase = .drive →
    s.refreshRate < ((now s).1 + 2 ^ s.config.wT - s.tStart) % 2 ^ s.config.wT →
    step s = .next { (now s).2 with phase := .idle }

/-- R191 (spec decision D14): an empty sequence commits nothing and goes on polling the clock, one step an
iteration (log 7). -/
def Obligations.EmptyDriveCommitsNothing : Prop :=
  ∀ s : State, s.phase = .drive → s.ndig = 0 →
    ((now s).1 + 2 ^ s.config.wT - s.tStart) % 2 ^ s.config.wT ≤ s.refreshRate → step s = .next (now s).2

/-- R198, R217, R218, R236: a whole print. From IDLE, for every clock schedule that lets the window pass: the
print returns to IDLE, having committed exactly as many words as samples were in the window, word j being
`W[j mod n]` of the frames shown; the rate is the one it drove with; nothing of the ports, the polarity and the
lifecycle differs but the bytes taken. On the error path only words of the error text are committed. The number of
steps, one to accept and one an iteration, is the model's granularity (log 7). -/
def Obligations.PrintShowsItsFramesForItsWindow : Prop :=
  ∀ (s : State) (i : Instr) (rest : List Byte) (r : Formatted) (a : Nat) (inside : List Nat) (e : Nat) (more : List Nat),
    s.phase = .idle → s.constructed = true → i.wellFormed = true → s.port = encode i ++ rest →
    printOf s.config i = some r → i.withinLimits s.config = true → s.advances = a :: (inside ++ e :: more) →
    inside.sum ≤ windowOf s.config r s.refreshRate → windowOf s.config r s.refreshRate < inside.sum + e →
    inside.sum + e < 2 ^ s.config.wT →
    ∃ t, runSteps (inside.length + 2) s = .next t ∧ t.phase = .idle ∧
      t.txlog = s.txlog ++ cycleWords (wordsOf s.config.glyphRom s.polarity (framesShown r)) inside.length ∧
      t.refreshRate = windowOf s.config r s.refreshRate ∧ t.port = rest ∧ t.response = s.response ∧
      t.polarity = s.polarity ∧ t.constructed = true ∧ t.config = s.config ∧ t.advances = more ∧
      t.nowCalls = s.nowCalls + (inside.length + 2)

/-- R194: with at least one sample in the window for each frame, every frame's word is committed. The number of
steps is the model's granularity (log 7). -/
def Obligations.LongEnoughWindowShowsEveryFrame : Prop :=
  ∀ (s : State) (i : Instr) (rest : List Byte) (seq : FrameSeq) (a : Nat) (inside : List Nat) (e : Nat) (more : List Nat),
    s.phase = .idle → s.constructed = true → i.wellFormed = true → s.port = encode i ++ rest →
    printOf s.config i = some (.frames seq) → i.withinLimits s.config = true → s.advances = a :: (inside ++ e :: more) →
    inside.sum ≤ s.refreshRate → s.refreshRate < inside.sum + e → inside.sum + e < 2 ^ s.config.wT →
    seq.length ≤ inside.length →
    ∃ t added, runSteps (inside.length + 2) s = .next t ∧ t.phase = .idle ∧ t.txlog = s.txlog ++ added ∧
      ∀ fr ∈ seq, ∀ p, s.config.glyphRom[fr.g.toNat]? = some p →
        encodeWord p fr.pos fr.dp s.polarity ∈ added

/-- R190: the number of commits is not determined by the operands: for every print with a frame to show, every
window but the endless one and every c there is a clock schedule under which it commits c words. The number
of steps is the model's granularity (log 7). -/
def Obligations.AnyNumberOfCommitsIsPossible : Prop :=
  ∀ (s : State) (i : Instr) (rest : List Byte) (r : Formatted) (c : Nat),
    s.phase = .idle → s.constructed = true → i.wellFormed = true → s.port = encode i ++ rest →
    printOf s.config i = some r → i.withinLimits s.config = true → framesShown r ≠ [] →
    windowOf s.config r s.refreshRate + 1 < 2 ^ s.config.wT →
    ∃ (advances : List Nat) (t : State), runSteps (c + 2) { s with advances := advances } = .next t ∧
      t.phase = .idle ∧ t.txlog.length = s.txlog.length + c

/-- R197, R270: with the rate 2^`W_T` - 1 a drive never ends, whatever the clock answers, however many steps it takes
(one an iteration, log 7). -/
def Obligations.MaximalRateNeverEnds : Prop :=
  ∀ (s : State) (k : Nat), MachineInvariant s → s.phase = .drive → s.refreshRate + 1 = 2 ^ s.config.wT →
    ∃ t, runSteps k s = .next t ∧ t.phase = .drive

/-- R267, R213, R236: after a print that took the error path, GETRATE answers the low 32 bits of `DEFAULT_REFRESH`,
whatever the rate was: `DEFAULT_REFRESH` itself where it is below 2^32 (bytes 10 27 00 00 where it is 10000), and every
word committed meanwhile is a word of the error text. That a `DEFAULT_REFRESH` of 2^32 or more, which needs a `W_T` above
32, is answered by its low 32 bits is the model's choice (log 23). The number of steps is the model's granularity
(log 7), the list of responses its form of the port (log 9). -/
def Obligations.FailedPrintIsVisibleInTheRate : Prop :=
  ∀ (s : State) (i : Instr) (rest : List Byte) (sig : Signal) (a : Nat) (inside : List Nat) (e : Nat) (more : List Nat),
    s.phase = .idle → s.constructed = true → i.wellFormed = true → s.port = encode i ++ encode .getrate ++ rest →
    printOf s.config i = some (.raised sig) → i.withinLimits s.config = true → s.advances = a :: (inside ++ e :: more) →
    inside.sum ≤ s.config.defaultRefresh → s.config.defaultRefresh < inside.sum + e →
    inside.sum + e < 2 ^ s.config.wT →
    ∃ t added, runSteps (inside.length + 3) s = .next t ∧ t.phase = .idle ∧
      t.response = s.response ++ bytesOfWord (BitVec.ofNat 32 s.config.defaultRefresh) ∧
      (s.config.defaultRefresh = 10000 → t.response = s.response ++ [0x10, 0x27, 0x00, 0x00]) ∧ t.txlog = s.txlog ++ added ∧
      ∀ w ∈ added, w ∈ wordsOf s.config.glyphRom s.polarity (errorFrames sig)

/-! ## Whole-machine rules -/

/-- R26, R27: once constructed, no step changes the polarity or the lifecycle bit; before, only CONSTRUCT does. -/
def Obligations.PolarityIsWrittenOnce : Prop :=
  ∀ s t : State, step s = .next t →
    (s.constructed = true → t.constructed = true ∧ t.polarity = s.polarity) ∧
    (s.constructed = false → t.constructed = true →
      ∃ pol rest, decode s.port = .operation (.construct pol) rest ∧ t.polarity = pol) ∧
    (t.constructed = false → t.polarity = s.polarity)

/-- R25: `REFRESH_RATE` is written by CONSTRUCT, SETRATE and the error path, in IDLE, and by nothing else. -/
def Obligations.RateHasThreeWriters : Prop :=
  ∀ s t : State, step s = .next t → t.refreshRate ≠ s.refreshRate →
    s.phase = .idle ∧
    ((∃ pol rest, decode s.port = .operation (.construct pol) rest ∧ t.refreshRate = s.config.defaultRefresh) ∨
     (∃ ms rest, decode s.port = .operation (.setrate ms) rest ∧ t.refreshRate = ms.toNat % 2 ^ s.config.wT) ∨
     (∃ i rest sig, decode s.port = .operation i rest ∧ printOf s.config i = some (.raised sig) ∧
        t.refreshRate = s.config.defaultRefresh))

/-- R72, R62, R66, R187: a step appends at most one word to `TXLOG`, only in DRIVE, and `LATCH` follows it; nothing is
ever removed from the log. That a step is one iteration, and so one word, is the model's granularity (log 7). The
response port (R99) is the list of every byte answered, the model's form of it (log 9); nothing is removed from it. -/
def Obligations.TxlogGrowsOneWordAtATime : Prop :=
  ∀ s t : State, step s = .next t →
    ((t.txlog = s.txlog ∧ t.latch = s.latch) ∨
     (s.phase = .drive ∧ t.phase = .drive ∧ ∃ w, t.txlog = s.txlog ++ [w] ∧ t.latch = w)) ∧
    ∃ answered, t.response = s.response ++ answered

/-- R127, R75: no step changes a table or any other parameter. -/
def Obligations.ParametersNeverChange : Prop :=
  ∀ s t : State, step s = .next t → t.config = s.config

/-- R260, R262 (spec decision D21): a hardware reset at any moment, even in a drive, leaves `CONSTRUCTED` = 0 and
`PHASE` = IDLE, commits nothing more, keeps the invariant, and the next operation executed can only be CONSTRUCT. -/
def Obligations.HardwareResetAbandonsTheDrive : Prop :=
  ∀ any s : State, (s.hardwareReset any).constructed = false ∧ (s.hardwareReset any).phase = .idle ∧
    (s.hardwareReset any).txlog = s.txlog ∧ (s.hardwareReset any).latch = s.latch ∧
    (MachineInvariant s → MachineInvariant (s.hardwareReset any)) ∧
    ∀ (i : Instr) (rest : List Byte), i.wellFormed = true → s.port = encode i ++ rest →
      (∀ pol, i ≠ .construct pol) → step (s.hardwareReset any) = .refused .notConstructed

/-! ## The parameters of R6 -/

/-- R69, R188 (spec decision D13): at every clock width the deadline test is the comparison of the true elapsed
time, as long as that is below 2^w, however the clock wraps. -/
def Obligations.DeadlineTestSurvivesTheWrap : Prop :=
  ∀ (w rate start later : Nat), start ≤ later → later - start < 2 ^ w →
    (deadlinePassed w rate (toWidth w later) (toWidth w start) = true ↔ rate < later - start)

/-- R6 (spec decisions D1, D8, D16 to D18): the values the spec decides for the parameters, in the reset state. -/
def Obligations.ResetParametersAreTheSpecs : Prop :=
  State.reset.config.defaultRefresh = 10000 ∧ State.reset.config.wT = 32 ∧ State.reset.config.xlenI = 32 ∧
    State.reset.config.strMax = 255 ∧ State.reset.config.pointAtDpp0 = false ∧ State.reset.config.numerics = .exact

/-- R91 (spec decision D1): the operand of PRINTI is a two's complement integer of `XLEN_I` bits, for every positive
`XLEN_I`: in its range, congruent to the signed value of the four bytes modulo 2^`XLEN_I`, and equal to it when
`XLEN_I` is at least 32. Widths other than 32 are read as log 23 says. -/
def Obligations.IntegerOperandIsTwosComplement : Prop :=
  ∀ (x : Nat) (v : Word), 0 < x →
    -(2 ^ (x - 1) : Int) ≤ integerValue x v ∧ integerValue x v < 2 ^ (x - 1) ∧
    (2 ^ x : Int) ∣ integerValue x v - v.toInt ∧ (32 ≤ x → integerValue x v = v.toInt)

/-- R95, R212: SETRATE completes on every operand and the rate takes its low `W_T` bits; that the bits above `W_T` have
no effect where `W_T` is below 32 is the model's choice (log 23). -/
def Obligations.SetrateTakesTheWidthOfTheRate : Prop :=
  ∀ (ms : Word) (s : State), s.phase = .idle → s.constructed = true →
    exec (.setrate ms) s = .next { s with refreshRate := ms.toNat % 2 ^ s.config.wT } ∧
    (32 ≤ s.config.wT → ms.toNat % 2 ^ s.config.wT = ms.toNat)

/-- R94, R216: PRINTS answers a next state exactly for a text of at most `STR_MAX` characters; that a longer one is
refused is the model's choice (log 23). With `STR_MAX` = 255 every well-formed text is within it. -/
def Obligations.PrintsIsRefusedAboveStrMaxOnly : Prop :=
  ∀ (text : List Byte) (s : State), s.phase = .idle → s.constructed = true →
    ((∃ t, exec (.prints text) s = .next t) ↔ text.length ≤ s.config.strMax) ∧
    (s.config.strMax < text.length → exec (.prints text) s = .refused .textAboveMax) ∧
    (s.config.strMax = 255 → (Instr.prints text).wellFormed = true → text.length ≤ s.config.strMax)
end

