-- ==== Sys2Proof/Laws/State.lean ====
section
/-! SUPPORT. One lemma per field per update of the state, each true by rfl, so that no proof unfolds a record
update. -/

namespace Sys2Proof.Machine

/-- A number cut to a width is below it. -/
theorem toWidth_lt (w n : Nat) : toWidth w n < 2 ^ w := Nat.mod_lt n (Nat.two_pow_pos w)

/-- A number that fits a width is kept. -/
theorem toWidth_of_lt {w n : Nat} (h : n < 2 ^ w) : toWidth w n = n := Nat.mod_eq_of_lt h

@[simp] theorem now_fst (s : State) : (now s).1 = sample s := rfl
@[simp] theorem now_snd (s : State) : (now s).2 = tick s := rfl

/-! ## commit -/

@[simp] theorem commit_refreshRate (w : Word16) (s : State) : (commit w s).refreshRate = s.refreshRate := rfl
@[simp] theorem commit_polarity (w : Word16) (s : State) : (commit w s).polarity = s.polarity := rfl
@[simp] theorem commit_constructed (w : Word16) (s : State) : (commit w s).constructed = s.constructed := rfl
@[simp] theorem commit_fg (w : Word16) (s : State) : (commit w s).fg = s.fg := rfl
@[simp] theorem commit_fp (w : Word16) (s : State) : (commit w s).fp = s.fp := rfl
@[simp] theorem commit_fd (w : Word16) (s : State) : (commit w s).fd = s.fd := rfl
@[simp] theorem commit_ndig (w : Word16) (s : State) : (commit w s).ndig = s.ndig := rfl
@[simp] theorem commit_scan (w : Word16) (s : State) : (commit w s).scan = s.scan := rfl
@[simp] theorem commit_tStart (w : Word16) (s : State) : (commit w s).tStart = s.tStart := rfl
@[simp] theorem commit_phase (w : Word16) (s : State) : (commit w s).phase = s.phase := rfl
@[simp] theorem commit_txlog (w : Word16) (s : State) : (commit w s).txlog = s.txlog ++ [w] := rfl
@[simp] theorem commit_latch (w : Word16) (s : State) : (commit w s).latch = w := rfl
@[simp] theorem commit_port (w : Word16) (s : State) : (commit w s).port = s.port := rfl
@[simp] theorem commit_response (w : Word16) (s : State) : (commit w s).response = s.response := rfl
@[simp] theorem commit_trueTime (w : Word16) (s : State) : (commit w s).trueTime = s.trueTime := rfl
@[simp] theorem commit_nowCalls (w : Word16) (s : State) : (commit w s).nowCalls = s.nowCalls := rfl
@[simp] theorem commit_advances (w : Word16) (s : State) : (commit w s).advances = s.advances := rfl
@[simp] theorem commit_config (w : Word16) (s : State) : (commit w s).config = s.config := rfl

/-! ## tick -/

@[simp] theorem tick_refreshRate (s : State) : (tick s).refreshRate = s.refreshRate := rfl
@[simp] theorem tick_polarity (s : State) : (tick s).polarity = s.polarity := rfl
@[simp] theorem tick_constructed (s : State) : (tick s).constructed = s.constructed := rfl
@[simp] theorem tick_fg (s : State) : (tick s).fg = s.fg := rfl
@[simp] theorem tick_fp (s : State) : (tick s).fp = s.fp := rfl
@[simp] theorem tick_fd (s : State) : (tick s).fd = s.fd := rfl
@[simp] theorem tick_ndig (s : State) : (tick s).ndig = s.ndig := rfl
@[simp] theorem tick_scan (s : State) : (tick s).scan = s.scan := rfl
@[simp] theorem tick_tStart (s : State) : (tick s).tStart = s.tStart := rfl
@[simp] theorem tick_phase (s : State) : (tick s).phase = s.phase := rfl
@[simp] theorem tick_txlog (s : State) : (tick s).txlog = s.txlog := rfl
@[simp] theorem tick_latch (s : State) : (tick s).latch = s.latch := rfl
@[simp] theorem tick_port (s : State) : (tick s).port = s.port := rfl
@[simp] theorem tick_response (s : State) : (tick s).response = s.response := rfl
@[simp] theorem tick_trueTime (s : State) : (tick s).trueTime = s.trueTime + nextAdvance s := rfl
@[simp] theorem tick_nowCalls (s : State) : (tick s).nowCalls = s.nowCalls + 1 := rfl
@[simp] theorem tick_advances (s : State) : (tick s).advances = s.advances.tail := rfl
@[simp] theorem tick_config (s : State) : (tick s).config = s.config := rfl

/-! ## respond -/

@[simp] theorem respond_refreshRate (w : Word) (s : State) : (respond w s).refreshRate = s.refreshRate := rfl
@[simp] theorem respond_polarity (w : Word) (s : State) : (respond w s).polarity = s.polarity := rfl
@[simp] theorem respond_constructed (w : Word) (s : State) : (respond w s).constructed = s.constructed := rfl
@[simp] theorem respond_fg (w : Word) (s : State) : (respond w s).fg = s.fg := rfl
@[simp] theorem respond_fp (w : Word) (s : State) : (respond w s).fp = s.fp := rfl
@[simp] theorem respond_fd (w : Word) (s : State) : (respond w s).fd = s.fd := rfl
@[simp] theorem respond_ndig (w : Word) (s : State) : (respond w s).ndig = s.ndig := rfl
@[simp] theorem respond_scan (w : Word) (s : State) : (respond w s).scan = s.scan := rfl
@[simp] theorem respond_tStart (w : Word) (s : State) : (respond w s).tStart = s.tStart := rfl
@[simp] theorem respond_phase (w : Word) (s : State) : (respond w s).phase = s.phase := rfl
@[simp] theorem respond_txlog (w : Word) (s : State) : (respond w s).txlog = s.txlog := rfl
@[simp] theorem respond_latch (w : Word) (s : State) : (respond w s).latch = s.latch := rfl
@[simp] theorem respond_port (w : Word) (s : State) : (respond w s).port = s.port := rfl
@[simp] theorem respond_response (w : Word) (s : State) : (respond w s).response = s.response ++ bytesOfWord w := rfl
@[simp] theorem respond_trueTime (w : Word) (s : State) : (respond w s).trueTime = s.trueTime := rfl
@[simp] theorem respond_nowCalls (w : Word) (s : State) : (respond w s).nowCalls = s.nowCalls := rfl
@[simp] theorem respond_advances (w : Word) (s : State) : (respond w s).advances = s.advances := rfl
@[simp] theorem respond_config (w : Word) (s : State) : (respond w s).config = s.config := rfl

/-! ## loadFrames -/

@[simp] theorem loadFrames_refreshRate (seq : FrameSeq) (s : State) : (loadFrames seq s).refreshRate = s.refreshRate := rfl
@[simp] theorem loadFrames_polarity (seq : FrameSeq) (s : State) : (loadFrames seq s).polarity = s.polarity := rfl
@[simp] theorem loadFrames_constructed (seq : FrameSeq) (s : State) : (loadFrames seq s).constructed = s.constructed := rfl
@[simp] theorem loadFrames_ndig (seq : FrameSeq) (s : State) : (loadFrames seq s).ndig = BitVec.ofNat 3 seq.length := rfl
@[simp] theorem loadFrames_scan (seq : FrameSeq) (s : State) : (loadFrames seq s).scan = s.scan := rfl
@[simp] theorem loadFrames_tStart (seq : FrameSeq) (s : State) : (loadFrames seq s).tStart = s.tStart := rfl
@[simp] theorem loadFrames_phase (seq : FrameSeq) (s : State) : (loadFrames seq s).phase = s.phase := rfl
@[simp] theorem loadFrames_txlog (seq : FrameSeq) (s : State) : (loadFrames seq s).txlog = s.txlog := rfl
@[simp] theorem loadFrames_latch (seq : FrameSeq) (s : State) : (loadFrames seq s).latch = s.latch := rfl
@[simp] theorem loadFrames_port (seq : FrameSeq) (s : State) : (loadFrames seq s).port = s.port := rfl
@[simp] theorem loadFrames_response (seq : FrameSeq) (s : State) : (loadFrames seq s).response = s.response := rfl
@[simp] theorem loadFrames_trueTime (seq : FrameSeq) (s : State) : (loadFrames seq s).trueTime = s.trueTime := rfl
@[simp] theorem loadFrames_nowCalls (seq : FrameSeq) (s : State) : (loadFrames seq s).nowCalls = s.nowCalls := rfl
@[simp] theorem loadFrames_advances (seq : FrameSeq) (s : State) : (loadFrames seq s).advances = s.advances := rfl
@[simp] theorem loadFrames_config (seq : FrameSeq) (s : State) : (loadFrames seq s).config = s.config := rfl

/-! ## beginDrive -/

@[simp] theorem beginDrive_refreshRate (s : State) : (beginDrive s).refreshRate = s.refreshRate := rfl
@[simp] theorem beginDrive_polarity (s : State) : (beginDrive s).polarity = s.polarity := rfl
@[simp] theorem beginDrive_constructed (s : State) : (beginDrive s).constructed = s.constructed := rfl
@[simp] theorem beginDrive_fg (s : State) : (beginDrive s).fg = s.fg := rfl
@[simp] theorem beginDrive_fp (s : State) : (beginDrive s).fp = s.fp := rfl
@[simp] theorem beginDrive_fd (s : State) : (beginDrive s).fd = s.fd := rfl
@[simp] theorem beginDrive_ndig (s : State) : (beginDrive s).ndig = s.ndig := rfl
@[simp] theorem beginDrive_scan (s : State) : (beginDrive s).scan = 0 := rfl
@[simp] theorem beginDrive_tStart (s : State) : (beginDrive s).tStart = sample s := rfl
@[simp] theorem beginDrive_phase (s : State) : (beginDrive s).phase = .drive := rfl
@[simp] theorem beginDrive_txlog (s : State) : (beginDrive s).txlog = s.txlog := rfl
@[simp] theorem beginDrive_latch (s : State) : (beginDrive s).latch = s.latch := rfl
@[simp] theorem beginDrive_port (s : State) : (beginDrive s).port = s.port := rfl
@[simp] theorem beginDrive_response (s : State) : (beginDrive s).response = s.response := rfl
@[simp] theorem beginDrive_trueTime (s : State) : (beginDrive s).trueTime = s.trueTime + nextAdvance s := rfl
@[simp] theorem beginDrive_nowCalls (s : State) : (beginDrive s).nowCalls = s.nowCalls + 1 := rfl
@[simp] theorem beginDrive_advances (s : State) : (beginDrive s).advances = s.advances.tail := rfl
@[simp] theorem beginDrive_config (s : State) : (beginDrive s).config = s.config := rfl

/-! ## endDrive -/

@[simp] theorem endDrive_refreshRate (s : State) : (endDrive s).refreshRate = s.refreshRate := rfl
@[simp] theorem endDrive_polarity (s : State) : (endDrive s).polarity = s.polarity := rfl
@[simp] theorem endDrive_constructed (s : State) : (endDrive s).constructed = s.constructed := rfl
@[simp] theorem endDrive_fg (s : State) : (endDrive s).fg = s.fg := rfl
@[simp] theorem endDrive_fp (s : State) : (endDrive s).fp = s.fp := rfl
@[simp] theorem endDrive_fd (s : State) : (endDrive s).fd = s.fd := rfl
@[simp] theorem endDrive_ndig (s : State) : (endDrive s).ndig = s.ndig := rfl
@[simp] theorem endDrive_scan (s : State) : (endDrive s).scan = s.scan := rfl
@[simp] theorem endDrive_tStart (s : State) : (endDrive s).tStart = s.tStart := rfl
@[simp] theorem endDrive_phase (s : State) : (endDrive s).phase = .idle := rfl
@[simp] theorem endDrive_txlog (s : State) : (endDrive s).txlog = s.txlog := rfl
@[simp] theorem endDrive_latch (s : State) : (endDrive s).latch = s.latch := rfl
@[simp] theorem endDrive_port (s : State) : (endDrive s).port = s.port := rfl
@[simp] theorem endDrive_response (s : State) : (endDrive s).response = s.response := rfl
@[simp] theorem endDrive_trueTime (s : State) : (endDrive s).trueTime = s.trueTime := rfl
@[simp] theorem endDrive_nowCalls (s : State) : (endDrive s).nowCalls = s.nowCalls := rfl
@[simp] theorem endDrive_advances (s : State) : (endDrive s).advances = s.advances := rfl
@[simp] theorem endDrive_config (s : State) : (endDrive s).config = s.config := rfl

/-! ## resetRate -/

@[simp] theorem resetRate_refreshRate (s : State) : (resetRate s).refreshRate = s.config.defaultRefresh := rfl
@[simp] theorem resetRate_polarity (s : State) : (resetRate s).polarity = s.polarity := rfl
@[simp] theorem resetRate_constructed (s : State) : (resetRate s).constructed = s.constructed := rfl
@[simp] theorem resetRate_fg (s : State) : (resetRate s).fg = s.fg := rfl
@[simp] theorem resetRate_fp (s : State) : (resetRate s).fp = s.fp := rfl
@[simp] theorem resetRate_fd (s : State) : (resetRate s).fd = s.fd := rfl
@[simp] theorem resetRate_ndig (s : State) : (resetRate s).ndig = s.ndig := rfl
@[simp] theorem resetRate_scan (s : State) : (resetRate s).scan = s.scan := rfl
@[simp] theorem resetRate_tStart (s : State) : (resetRate s).tStart = s.tStart := rfl
@[simp] theorem resetRate_phase (s : State) : (resetRate s).phase = s.phase := rfl
@[simp] theorem resetRate_txlog (s : State) : (resetRate s).txlog = s.txlog := rfl
@[simp] theorem resetRate_latch (s : State) : (resetRate s).latch = s.latch := rfl
@[simp] theorem resetRate_port (s : State) : (resetRate s).port = s.port := rfl
@[simp] theorem resetRate_response (s : State) : (resetRate s).response = s.response := rfl
@[simp] theorem resetRate_trueTime (s : State) : (resetRate s).trueTime = s.trueTime := rfl
@[simp] theorem resetRate_nowCalls (s : State) : (resetRate s).nowCalls = s.nowCalls := rfl
@[simp] theorem resetRate_advances (s : State) : (resetRate s).advances = s.advances := rfl
@[simp] theorem resetRate_config (s : State) : (resetRate s).config = s.config := rfl

/-! ## commitFrame -/

@[simp] theorem commitFrame_refreshRate (w : Word16) (s : State) : (commitFrame w s).refreshRate = s.refreshRate := rfl
@[simp] theorem commitFrame_polarity (w : Word16) (s : State) : (commitFrame w s).polarity = s.polarity := rfl
@[simp] theorem commitFrame_constructed (w : Word16) (s : State) : (commitFrame w s).constructed = s.constructed := rfl
@[simp] theorem commitFrame_fg (w : Word16) (s : State) : (commitFrame w s).fg = s.fg := rfl
@[simp] theorem commitFrame_fp (w : Word16) (s : State) : (commitFrame w s).fp = s.fp := rfl
@[simp] theorem commitFrame_fd (w : Word16) (s : State) : (commitFrame w s).fd = s.fd := rfl
@[simp] theorem commitFrame_ndig (w : Word16) (s : State) : (commitFrame w s).ndig = s.ndig := rfl
@[simp] theorem commitFrame_scan (w : Word16) (s : State) : (commitFrame w s).scan = nextScan s := rfl
@[simp] theorem commitFrame_tStart (w : Word16) (s : State) : (commitFrame w s).tStart = s.tStart := rfl
@[simp] theorem commitFrame_phase (w : Word16) (s : State) : (commitFrame w s).phase = s.phase := rfl
@[simp] theorem commitFrame_txlog (w : Word16) (s : State) : (commitFrame w s).txlog = s.txlog ++ [w] := rfl
@[simp] theorem commitFrame_latch (w : Word16) (s : State) : (commitFrame w s).latch = w := rfl
@[simp] theorem commitFrame_port (w : Word16) (s : State) : (commitFrame w s).port = s.port := rfl
@[simp] theorem commitFrame_response (w : Word16) (s : State) : (commitFrame w s).response = s.response := rfl
@[simp] theorem commitFrame_trueTime (w : Word16) (s : State) : (commitFrame w s).trueTime = s.trueTime := rfl
@[simp] theorem commitFrame_nowCalls (w : Word16) (s : State) : (commitFrame w s).nowCalls = s.nowCalls := rfl
@[simp] theorem commitFrame_advances (w : Word16) (s : State) : (commitFrame w s).advances = s.advances := rfl
@[simp] theorem commitFrame_config (w : Word16) (s : State) : (commitFrame w s).config = s.config := rfl

/-! ## takeOperation -/

@[simp] theorem takeOperation_refreshRate (rest : List Byte) (s : State) : (takeOperation rest s).refreshRate = s.refreshRate := rfl
@[simp] theorem takeOperation_polarity (rest : List Byte) (s : State) : (takeOperation rest s).polarity = s.polarity := rfl
@[simp] theorem takeOperation_constructed (rest : List Byte) (s : State) : (takeOperation rest s).constructed = s.constructed := rfl
@[simp] theorem takeOperation_fg (rest : List Byte) (s : State) : (takeOperation rest s).fg = s.fg := rfl
@[simp] theorem takeOperation_fp (rest : List Byte) (s : State) : (takeOperation rest s).fp = s.fp := rfl
@[simp] theorem takeOperation_fd (rest : List Byte) (s : State) : (takeOperation rest s).fd = s.fd := rfl
@[simp] theorem takeOperation_ndig (rest : List Byte) (s : State) : (takeOperation rest s).ndig = s.ndig := rfl
@[simp] theorem takeOperation_scan (rest : List Byte) (s : State) : (takeOperation rest s).scan = s.scan := rfl
@[simp] theorem takeOperation_tStart (rest : List Byte) (s : State) : (takeOperation rest s).tStart = s.tStart := rfl
@[simp] theorem takeOperation_phase (rest : List Byte) (s : State) : (takeOperation rest s).phase = s.phase := rfl
@[simp] theorem takeOperation_txlog (rest : List Byte) (s : State) : (takeOperation rest s).txlog = s.txlog := rfl
@[simp] theorem takeOperation_latch (rest : List Byte) (s : State) : (takeOperation rest s).latch = s.latch := rfl
@[simp] theorem takeOperation_port (rest : List Byte) (s : State) : (takeOperation rest s).port = rest := rfl
@[simp] theorem takeOperation_response (rest : List Byte) (s : State) : (takeOperation rest s).response = s.response := rfl
@[simp] theorem takeOperation_trueTime (rest : List Byte) (s : State) : (takeOperation rest s).trueTime = s.trueTime := rfl
@[simp] theorem takeOperation_nowCalls (rest : List Byte) (s : State) : (takeOperation rest s).nowCalls = s.nowCalls := rfl
@[simp] theorem takeOperation_advances (rest : List Byte) (s : State) : (takeOperation rest s).advances = s.advances := rfl
@[simp] theorem takeOperation_config (rest : List Byte) (s : State) : (takeOperation rest s).config = s.config := rfl

/-! ## Reading the frame buffer -/

theorem loadFrames_frame (seq : FrameSeq) (s : State) (k : BitVec 2) :
    (loadFrames seq s).frame k = (seq[k.toNat]?).getD (s.frame k) := by
  have h : k.toNat < 4 := k.isLt
  simp only [State.frame, loadFrames, Vector.getElem_ofFn]
  cases seq[k.toNat]? <;> rfl

@[simp] theorem beginDrive_frame (s : State) (k : BitVec 2) : (beginDrive s).frame k = s.frame k := rfl
@[simp] theorem endDrive_frame (s : State) (k : BitVec 2) : (endDrive s).frame k = s.frame k := rfl
@[simp] theorem resetRate_frame (s : State) (k : BitVec 2) : (resetRate s).frame k = s.frame k := rfl
@[simp] theorem tick_frame (s : State) (k : BitVec 2) : (tick s).frame k = s.frame k := rfl
@[simp] theorem commitFrame_frame (w : Word16) (s : State) (k : BitVec 2) :
    (commitFrame w s).frame k = s.frame k := rfl
@[simp] theorem takeOperation_frame (rest : List Byte) (s : State) (k : BitVec 2) :
    (takeOperation rest s).frame k = s.frame k := rfl

end Sys2Proof.Machine
end

