-- ==== Sys2Proof/Laws/Port.lean ====
section
/-! SUPPORT. The byte order of the ports and one decoding lemma per operation. -/

namespace Sys2Proof.Machine

theorem wordOfBytes_extracts (w : Word) :
    wordOfBytes (w.extractLsb' 0 8) (w.extractLsb' 8 8) (w.extractLsb' 16 8) (w.extractLsb' 24 8) = w := by
  apply BitVec.eq_of_getLsbD_eq
  intro i hi
  simp only [wordOfBytes, BitVec.getLsbD_append, BitVec.getLsbD_extractLsb']
  split
  · rename_i h; simp [h]
  · split
    · rename_i h1 h2
      have : i - 8 < 8 := h2
      simp [this, show 8 + (i - 8) = i by omega]
    · split
      · rename_i h1 h2 h3
        have : i - 8 - 8 < 8 := h3
        simp [this, show 16 + (i - 8 - 8) = i by omega]
      · have : i - 8 - 8 - 8 < 8 := by omega
        simp [this, show 24 + (i - 8 - 8 - 8) = i by omega]

theorem bytesOfWord_wordOfBytes (b0 b1 b2 b3 : Byte) :
    bytesOfWord (wordOfBytes b0 b1 b2 b3) = [b0, b1, b2, b3] := by
  have e : ∀ (a b : Byte), a = b ↔ ∀ i, i < 8 → a.getLsbD i = b.getLsbD i := by
    intro a b; constructor
    · rintro rfl; simp
    · exact fun h => BitVec.eq_of_getLsbD_eq h
  simp only [bytesOfWord, wordOfBytes, List.cons.injEq, and_true]
  refine ⟨?_, ?_, ?_, ?_⟩ <;> rw [e] <;> intro i hi <;>
    simp only [BitVec.getLsbD_extractLsb', BitVec.getLsbD_append, hi, decide_true, Bool.true_and]
  · simp [hi]
  · simp [hi]
  · rw [if_neg (by omega), if_neg (by omega), if_pos (by omega)]
    congr 1
    omega
  · rw [if_neg (by omega), if_neg (by omega), if_neg (by omega)]
    congr 1
    omega

theorem bytesOfWord_eq (w : Word) : ∃ b0 b1 b2 b3, bytesOfWord w = [b0,b1,b2,b3] ∧ wordOfBytes b0 b1 b2 b3 = w :=
  ⟨_, _, _, _, rfl, wordOfBytes_extracts w⟩

theorem wordOfBytes_toNat (b0 b1 b2 b3 : Byte) : (wordOfBytes b0 b1 b2 b3).toNat =
   b0.toNat + 256 * b1.toNat + 65536 * b2.toNat + 16777216 * b3.toNat := by
  simp only [wordOfBytes, BitVec.toNat_append]
  have h0 := b0.isLt; have h1 := b1.isLt; have h2 := b2.isLt; have h3 := b3.isLt
  rw [← Nat.shiftLeft_add_eq_or_of_lt h2, ← Nat.shiftLeft_add_eq_or_of_lt h1, ← Nat.shiftLeft_add_eq_or_of_lt h0]
  simp only [Nat.shiftLeft_eq]
  omega

/-- The four bytes of a word decode to it wherever they stand. -/
theorem decodeSetrate_bytes (ms : Word) (rest : List Byte) :
    decodeSetrate (bytesOfWord ms ++ rest) = .operation (.setrate ms) rest := by
  obtain ⟨b0, b1, b2, b3, h, hw⟩ := bytesOfWord_eq ms
  rw [h, ← hw]; rfl

theorem decodePrinti_bytes (v : Word) (rest : List Byte) :
    decodePrinti (bytesOfWord v ++ rest) = .operation (.printi v) rest := by
  obtain ⟨b0, b1, b2, b3, h, hw⟩ := bytesOfWord_eq v
  rw [h, ← hw]; rfl

/-- Byte sequences of PRINTF, legal or reserved. -/
theorem decodePrintf_bytes (f : Word) (dd : Byte) (rest : List Byte) :
    decodePrintf (bytesOfWord f ++ dd :: rest) =
      if isNaN f then .invalid .floatIsNaN else if 4 < dd.toNat then .invalid .reservedDpp
      else .operation (.printf f dd) rest := by
  obtain ⟨b0, b1, b2, b3, h, hw⟩ := bytesOfWord_eq f
  rw [h, ← hw]; rfl

theorem length_byte_toNat (text : List Byte) (h : text.length ≤ 255) :
    (BitVec.ofNat 8 text.length).toNat = text.length := by
  rw [BitVec.toNat_ofNat]; omega

theorem decodePrints_bytes (text rest : List Byte) (h : text.length ≤ 255) :
    decodePrints (BitVec.ofNat 8 text.length :: (text ++ rest)) = .operation (.prints text) rest := by
  have hl := length_byte_toNat text h
  simp only [decodePrints, hl]
  rw [if_neg (by simp), List.take_left, List.drop_left]

theorem bytesOfWord_length (w : Word) : (bytesOfWord w).length = 4 := rfl

end Sys2Proof.Machine
end

