-- ==== Sys2Proof/Laws/Step.lean ====
section
/-! SUPPORT. What a step can do, said once: the cases of exec, of a step in DRIVE, and of a step. -/

namespace Sys2Proof.Machine

/-- An operation accepted by `whenReady` runs its meaning. -/
theorem whenReady_accepts (s : State) (meaning : State → Outcome) (h : s.phase = .idle)
    (hc : s.constructed = true) : whenReady s meaning = meaning s := by
  simp only [whenReady, h, hc, if_true]

/-- `whenReady` answers a next state only when the operation is accepted. -/
theorem whenReady_cases {s t : State} {meaning : State → Outcome} (h : whenReady s meaning = .next t) :
    s.phase = .idle ∧ s.constructed = true ∧ meaning s = .next t := by
  unfold whenReady at h
  split at h
  · cases h
  · rename_i hp
    split at h
    · rename_i hc; exact ⟨hp, hc, h⟩
    · cases h

/-- Everything an operation that answers a next state can have done. -/
theorem exec_cases {i : Instr} {s t : State} (h : exec i s = .next t) :
    s.phase = .idle ∧
    ((∃ pol, i = .construct pol ∧ s.constructed = false ∧
        t = { s with polarity := pol, refreshRate := s.config.defaultRefresh, constructed := true }) ∨
     (∃ ms, i = .setrate ms ∧ s.constructed = true ∧ t = { s with refreshRate := toWidth s.config.wT ms.toNat }) ∨
     (i = .getrate ∧ s.constructed = true ∧ t = respond (BitVec.ofNat 32 s.refreshRate) s) ∨
     (∃ r, printOf s.config i = some r ∧ s.constructed = true ∧
        (∀ f dpp, i = .printf f dpp → isNaN f = false ∧ dpp.toNat ≤ 4) ∧
        i.withinLimits s.config = true ∧ t = showFormatted r s)) := by
  cases i with
  | construct pol =>
    simp only [exec, execConstruct] at h
    split at h
    · cases h
    · rename_i hp
      split at h
      · cases h
      · rename_i hc
        cases h
        exact ⟨hp, .inl ⟨pol, rfl, by simpa using hc, rfl⟩⟩
  | setrate ms =>
    rw [exec, execSetrate] at h
    obtain ⟨hp, hc, e⟩ := whenReady_cases h
    cases e
    exact ⟨hp, .inr (.inl ⟨ms, rfl, hc, rfl⟩)⟩
  | getrate =>
    rw [exec, execGetrate] at h
    obtain ⟨hp, hc, e⟩ := whenReady_cases h
    cases e
    exact ⟨hp, .inr (.inr (.inl ⟨rfl, hc, rfl⟩))⟩
  | printi v =>
    rw [exec, execPrinti] at h
    obtain ⟨hp, hc, e⟩ := whenReady_cases h
    cases e
    exact ⟨hp, .inr (.inr (.inr ⟨_, rfl, hc, nofun, rfl, rfl⟩))⟩
  | printf f dpp =>
    rw [exec, execPrintf] at h
    obtain ⟨hp, hc, e⟩ := whenReady_cases h
    split at e
    · cases e
    · split at e
      · cases e
      · rename_i hn hd
        cases e
        refine ⟨hp, .inr (.inr (.inr ⟨_, rfl, hc, ?_, rfl, rfl⟩))⟩
        rintro f' dpp' ⟨⟩
        exact ⟨by simpa using hn, by omega⟩
  | prints text =>
    rw [exec, execPrints] at h
    obtain ⟨hp, hc, e⟩ := whenReady_cases h
    split at e
    · cases e
    · rename_i hl
      cases e
      exact ⟨hp, .inr (.inr (.inr ⟨_, rfl, hc, nofun, by simpa [Instr.withinLimits] using hl, rfl⟩))⟩

/-- Everything one loop iteration of a drive that answers a next state can have done. -/
theorem driveIteration_cases {c : Nat} {s t : State} (h : driveIteration c s = .next t) :
    (windowPassed c s = true ∧ t = endDrive s) ∨
    (windowPassed c s = false ∧ s.ndig = 0 ∧ t = s) ∨
    (windowPassed c s = false ∧ s.ndig ≠ 0 ∧
      ∃ w, frameWord s.config.glyphRom s.polarity (s.frame s.scan) = some w ∧ t = commitFrame w s) := by
  unfold driveIteration at h
  split at h
  · rename_i hw; cases h; exact .inl ⟨hw, rfl⟩
  · rename_i hw
    split at h
    · rename_i hn; cases h; exact .inr (.inl ⟨by simpa using hw, hn, rfl⟩)
    · rename_i hn
      split at h
      · rename_i w hf; cases h; exact .inr (.inr ⟨by simpa using hw, hn, w, hf, rfl⟩)
      · cases h

/-- Everything a step that answers a next state can have done. -/
theorem step_cases {s t : State} (h : step s = .next t) :
    (s.phase = .drive ∧ driveIteration (sample s) (tick s) = .next t) ∨
    (s.phase = .idle ∧ decode s.port = .incomplete ∧ t = s) ∨
    (s.phase = .idle ∧ ∃ i rest, decode s.port = .operation i rest ∧ exec i (takeOperation rest s) = .next t) := by
  unfold step at h
  split at h
  · rename_i hp; exact .inl ⟨hp, h⟩
  · rename_i hp
    split at h
    · rename_i i rest hd; exact .inr (.inr ⟨hp, i, rest, hd, h⟩)
    · rename_i hd; cases h; exact .inr (.inl ⟨hp, hd, rfl⟩)
    · cases h

/-- A step in DRIVE. -/
theorem step_drive {s : State} (h : s.phase = .drive) : step s = driveIteration (sample s) (tick s) := by
  simp only [step, h]; rfl

/-- A step in IDLE on a complete operation. -/
theorem step_operation {s : State} {i : Instr} {rest : List Byte} (h : s.phase = .idle)
    (hd : decode s.port = .operation i rest) : step s = exec i (takeOperation rest s) := by
  simp only [step, h, hd]

/-- No step faults: the machine has no fault (R10). -/
theorem step_never_faults (s : State) (r : Fault) : step s ≠ .fault r := nomatch r

/-- `k + 1` steps whose first answers a next state. -/
theorem runSteps_succ {s t : State} (k : Nat) (h : step s = .next t) : runSteps (k + 1) s = runSteps k t := by
  have hs : Sys2Proof.core.step s = .next t := h
  simp only [runSteps, Host.Core.run, hs]; rfl

/-- Steps in a row. -/
theorem runSteps_append {s t : State} (j k : Nat) (h : runSteps j s = .next t) :
    runSteps (j + k) s = runSteps k t := by
  induction j generalizing s with
  | zero => cases h; rw [Nat.zero_add]
  | succ j ih =>
    have hs : ∀ r, Sys2Proof.core.step s = r → runSteps (j + 1) s = .next t → ∃ u, step s = .next u ∧
        runSteps j u = .next t := by
      intro r hr hn
      simp only [runSteps, Host.Core.run, hr] at hn
      cases r with
      | next u => exact ⟨u, hr, hn⟩
      | fault r => cases hn
      | refused r => cases hn
    obtain ⟨u, hu, hj⟩ := hs _ rfl h
    rw [Nat.add_right_comm, runSteps_succ _ hu]
    exact ih hj

end Sys2Proof.Machine
end

