-- ==== Sys2Proof/Laws/Drive.lean ====
section
/-! SUPPORT. The loop of DRIVE: its deadline test and its three iterations (R185 to R192). -/

namespace Sys2Proof.Machine

/-- At any width the elapsed time of two samples is the true one, as long as that fits the width. -/
theorem elapsed_toWidth (w start later : Nat) (h : start ≤ later) (hlt : later - start < 2 ^ w) :
    elapsed w (toWidth w later) (toWidth w start) = later - start := by
  obtain ⟨d, rfl⟩ := Nat.exists_eq_add_of_le h
  rw [Nat.add_sub_cancel_left] at hlt ⊢
  have hs := toWidth_lt w start
  have e : (start + d) % 2 ^ w = (toWidth w start + d) % 2 ^ w := by rw [toWidth, Nat.mod_add_mod]
  simp only [elapsed]
  rw [toWidth, e]
  generalize toWidth w start = a at hs ⊢
  generalize 2 ^ w = m at hs hlt ⊢
  by_cases hc : a + d < m
  · rw [Nat.mod_eq_of_lt hc, show a + d + m - a = d + m by omega, Nat.add_mod_right, Nat.mod_eq_of_lt hlt]
  · have hm : (a + d) % m = a + d - m := by rw [Nat.mod_eq_sub_mod (by omega), Nat.mod_eq_of_lt (by omega)]
    rw [hm, show a + d - m + m - a = d by omega, Nat.mod_eq_of_lt hlt]

/-- The deadline test of the drive as arithmetic. -/
theorem passed_iff (c : Nat) (s : State) :
    windowPassed c s = true ↔ s.refreshRate < (c + 2 ^ s.config.wT - s.tStart) % 2 ^ s.config.wT := by
  rw [windowPassed, deadlinePassed, elapsed, decide_eq_true_iff]

/-- Its negation. -/
theorem passed_false (c : Nat) (s : State) :
    windowPassed c s = false ↔ (c + 2 ^ s.config.wT - s.tStart) % 2 ^ s.config.wT ≤ s.refreshRate := by
  rw [← not_lt, ← passed_iff]; simp

/-- The iteration that ends the drive. -/
theorem iter_end {c s} (h : windowPassed c s = true) : driveIteration c s = .next (endDrive s) := by
  rw [driveIteration, if_pos h]

/-- The iteration of an empty drive. -/
theorem iter_empty {c s} (h : windowPassed c s = false) (hn : s.ndig = 0) : driveIteration c s = .next s := by
  rw [driveIteration, if_neg (by simp [h]), if_pos hn]

/-- The iteration that commits a word. -/
theorem iter_commit {c s w} (h : windowPassed c s = false) (hn : s.ndig ≠ 0)
    (hw : frameWord s.config.glyphRom s.polarity (s.frame s.scan) = some w) :
    driveIteration c s = .next (commitFrame w s) := by
  rw [driveIteration, if_neg (by simp [h]), if_neg hn, hw]

/-- A nonzero NDIG is a positive number. -/
theorem ndig_pos {s : State} (hn : s.ndig ≠ 0) : s.ndig.toNat ≠ 0 := fun hh => hn (BitVec.eq_of_toNat_eq (by simpa using hh))

/-- In a legal buffer the frame at SCAN has a word. -/
theorem scanned_word {s : State} (hl : FramesLegal s) (hs : s.scan.toNat < s.ndig.toNat) :
    ∃ w, frameWord s.config.glyphRom s.polarity (s.frame s.scan) = some w := by
  have := (hl.2.1 ⟨s.scan.toNat, s.scan.isLt⟩ hs).1
  have hlt : (s.frame s.scan).g.toNat < 29 := Nat.lt_succ_of_le this
  simp only [frameWord, glyph]
  rw [Vector.getElem?_eq_getElem hlt]; exact ⟨_, rfl⟩

/-- PRINTI when accepted. -/
theorem execPrinti_eq (v s) (h : s.phase = .idle) (hc : s.constructed = true) :
    exec (.printi v) s = .next (showFormatted (fmtInt s.config (integerValue s.config.xlenI v) 0) s) := by
  rw [exec, execPrinti, whenReady_accepts s _ h hc]

/-- PRINTF when accepted with legal operands. -/
theorem execPrintf_ok (f dpp s) (h : s.phase = .idle) (hc : s.constructed = true)
    (hn : isNaN f = false) (hd : dpp.toNat ≤ 4) :
    exec (.printf f dpp) s = .next (showFormatted (fmtFix s.config f dpp.toNat) s) := by
  rw [exec, execPrintf, whenReady_accepts s _ h hc, if_neg (by simp [hn]), if_neg (by omega)]

/-- PRINTS when accepted with a text of legal length. -/
theorem execPrints_eq (text s) (h : s.phase = .idle) (hc : s.constructed = true)
    (hl : text.length ≤ s.config.strMax) :
    exec (.prints text) s = .next (showFormatted (fmtStr text) s) := by
  rw [exec, execPrints, whenReady_accepts s _ h hc, if_neg (by omega)]

end Sys2Proof.Machine
end

