-- ==== Sys2Proof/Laws/Encoder.lean ====
section
/-! SUPPORT. The bits of BITREV and of the two bytes of a TransferWord (R124, R170 to R174). -/

namespace Sys2Proof.Machine

/-- Bit i of the reversed byte. -/
theorem bitrev_bit : ∀ b : Byte, ∀ i : Fin 8, (bitrev b).getLsbD i.val = b.getLsbD (7 - i.val) := by
  set_option maxRecDepth 10000 in decide

/-- The bits of the digit-select mask. -/
theorem lowByte_bit : ∀ (pos : Position) (i : Fin 8), (lowByte pos).getLsbD i.val = (i.val == 4 + pos.toNat) := by decide

/-- The bits of the segment byte. -/
theorem highByte_bit (p dp i) : (highByte p dp).getLsbD i = (p.getLsbD i || (i == 0 && dp)) := by
  cases dp
  · simp [highByte]
  · simp [highByte]
    by_cases h : i = 0 <;> simp [h]

/-- An encoded word selects exactly one digit. -/
theorem selects (p pos dp pol) : SelectsOneDigit (encodeWord p pos dp pol) := by
  refine ⟨pos, ?_⟩
  have : selectByte (encodeWord p pos dp pol) = match pol with | .cathode => lowByte pos | .anode => ~~~(lowByte pos) := by
    cases pol <;>
    · apply BitVec.eq_of_getLsbD_eq
      intro i hi
      simp only [selectByte, encodeWord, BitVec.getLsbD_extractLsb', hi, decide_true, Bool.true_and, Nat.zero_add]
      rw [BitVec.getLsbD_append, if_pos hi]
  rw [this]; cases pol
  · right; rfl
  · left; rfl

/-- Everything frameWord can answer. -/
theorem frameWord_some {rom pol fr w} (h : frameWord rom pol fr = some w) :
    ∃ p, rom[fr.g.toNat]? = some p ∧ w = encodeWord p fr.pos fr.dp pol := by
  simp only [frameWord, glyph, Option.map_eq_some_iff] at h
  obtain ⟨p, hp, rfl⟩ := h; exact ⟨p, hp, rfl⟩

end Sys2Proof.Machine
end

