-- ==== Sys2Proof/Laws/Formatter.lean ====
section
/-! SUPPORT. The Value Formatter: one lemma for each way a unit can answer (R141 to R154). -/

namespace Sys2Proof.Machine

/-- The units digit. -/
theorem digit_zero (N) : digit N 0 = N % 10 := by simp [digit]

/-- The tens digit. -/
theorem digit_one (N) : digit N 1 = N / 10 % 10 := by simp [digit]

/-- The hundreds digit. -/
theorem digit_two (N) : digit N 2 = N / 100 % 10 := by simp [digit]

/-- The thousands digit. -/
theorem digit_three (N) : digit N 3 = N / 1000 % 10 := by simp [digit]

/-- A digit is at most 9. -/
theorem digit_le (N k) : digit N k ≤ 9 := by simp only [digit]; omega

/-- How many digits the numeral of an integer 0 to 9999 has. -/
def numeralLength (N : Nat) : Nat := if N < 10 then 1 else if N < 100 then 2 else if N < 1000 then 3 else 4

/-- The numeral of an integer 0 to 9999 is its lower digits. -/
theorem numeralDigits_eq (N : Nat) (h : N ≤ 9999) : numeralDigits N = (List.range (numeralLength N)).map (digit N) := by
  unfold numeralDigits numeralLength
  split
  · subst_vars; rfl
  · rename_i h0
    split
    · rw [Nat.digits_of_lt 10 N h0 (by omega)]
      simp [List.range_succ, digit_zero]; omega
    · rw [Nat.digits_def' (by omega) (by omega)]
      split
      · rw [Nat.digits_of_lt 10 _ (by omega) (by omega)]
        simp [List.range_succ, digit_zero, digit_one]; omega
      · rw [Nat.digits_def' (by omega) (by omega)]
        split
        · rw [Nat.digits_of_lt 10 _ (by omega) (by omega)]
          simp [List.range_succ, digit_zero, digit_one, digit_two]; omega
        · rw [Nat.digits_def' (by omega) (by omega), Nat.digits_of_lt 10 _ (by omega) (by omega)]
          simp [List.range_succ, digit_zero, digit_one, digit_two, digit_three]; omega

/-- Its length. -/
theorem numeralDigits_length (N : Nat) (h : N ≤ 9999) : (numeralDigits N).length = numeralLength N := by
  rw [numeralDigits_eq N h]; simp

/-- A numeral has a digit. -/
theorem numeralLength_pos (N : Nat) : 1 ≤ numeralLength N := by
  unfold numeralLength; repeat' split
  all_goals omega

/-- And at most four. -/
theorem numeralLength_le (N : Nat) : numeralLength N ≤ 4 := by
  unfold numeralLength; repeat' split
  all_goals omega

/-- COUNT in closed form. -/
theorem count_eq (N dpp : Nat) (h : N ≤ 9999) (hd : dpp ≤ 4) :
    count (digit N) dpp = min 4 (max (dpp + 1) (numeralLength N)) := by
  simp only [count, countFrom, Nat.reduceAdd, digit_one, digit_two, digit_three, numeralLength]
  split <;> rename_i h3
  · split <;> rename_i h2
    · split <;> rename_i h1
      · repeat' split
        all_goals omega
      · repeat' split
        all_goals omega
    · repeat' split
      all_goals omega
  · repeat' split
    all_goals omega

/-- POINT on the four positions. -/
theorem point_eq (pa : Bool) (k dpp : Nat) (hk : k < 4) : point pa k dpp = (k == dpp && (k != 0 || pa)) := by
  unfold point
  by_cases h : k = dpp
  · subst h
    by_cases h0 : k = 0
    · subst h0; cases pa <;> rfl
    · have : decide (1 ≤ k ∧ k ≤ 3) = true := by simp; omega
      simp [h0, this]
  · simp [h]

/-- FMTINT in range. -/
theorem fmtInt_ok (cfg : Config) (v : Int) (dpp : Nat) (h0 : 0 ≤ v) (h1 : v ≤ 9999) :
    fmtInt cfg v dpp = .frames (integerFrames cfg.pointAtDpp0 v.toNat dpp) := by
  simp only [fmtInt, integerSignal, Config.maxValue]
  rw [if_neg (by omega), if_neg (by push_cast; omega)]

/-- FMTINT below 0. -/
theorem fmtInt_neg (cfg : Config) (v : Int) (dpp : Nat) (h0 : v < 0) : fmtInt cfg v dpp = .raised .sign := by
  simp only [fmtInt, integerSignal, if_pos h0]

/-- FMTINT above 9999. -/
theorem fmtInt_over (cfg : Config) (v : Int) (dpp : Nat) (h0 : 9999 < v) : fmtInt cfg v dpp = .raised .overflow := by
  simp only [fmtInt, integerSignal, Config.maxValue]
  rw [if_neg (by omega), if_pos (by push_cast; omega)]

/-- Everything FMTINT can have done when it returns frames. -/
theorem fmtInt_frames (cfg v dpp seq) (h : fmtInt cfg v dpp = .frames seq) :
    0 ≤ v ∧ v ≤ 9999 ∧ seq = integerFrames cfg.pointAtDpp0 v.toNat dpp := by
  by_cases h0 : v < 0
  · rw [fmtInt_neg _ _ _ h0] at h; cases h
  · by_cases h1 : 9999 < v
    · rw [fmtInt_over _ _ _ h1] at h; cases h
    · rw [fmtInt_ok _ _ _ (by omega) (by omega)] at h; cases h; exact ⟨by omega, by omega, rfl⟩

/-- The shape of the frames of an integer. -/
theorem integerFrames_shape (pa : Bool) (N dpp : Nat) (hN : N ≤ 9999) (hd : dpp ≤ 4) :
    (integerFrames pa N dpp).length ≤ 4 ∧ 1 ≤ (integerFrames pa N dpp).length ∧
    (integerFrames pa N dpp).map (fun fr => fr.pos.toNat) = List.range (integerFrames pa N dpp).length ∧
    (∀ fr ∈ integerFrames pa N dpp, fr.g.toNat ≤ 9) ∧ (integerFrames pa N dpp).countP (·.dp) ≤ 1 := by
  unfold integerFrames
  rw [count_eq _ _ hN hd]
  have h1 := numeralLength_pos N; have h4 := numeralLength_le N
  generalize hn : min 4 (max (dpp + 1) (numeralLength N)) = n
  have hn4 : n ≤ 4 := by omega
  refine ⟨by simpa using hn4, by simp; omega, ?_, ?_, ?_⟩
  · rw [List.map_map, List.length_map, List.length_range]
    conv_rhs => rw [← List.map_id (List.range n)]
    apply List.map_congr_left
    intro k hk
    have : k < n := List.mem_range.mp hk
    simp only [Function.comp, integerFrame, BitVec.toNat_ofNat, id]; omega
  · intro fr hfr
    obtain ⟨k, _, rfl⟩ := List.mem_map.mp hfr
    have := digit_le N k
    simp only [integerFrame, BitVec.toNat_ofNat]; omega
  · rw [List.countP_map]
    have : List.countP ((fun fr : DigitFrame => fr.dp) ∘ integerFrame pa N dpp) (List.range n) ≤
        List.countP (fun k => k == dpp) (List.range n) := by
      apply List.countP_mono_left
      intro k _ hk
      simp only [Function.comp, integerFrame, point, Bool.and_eq_true, decide_eq_true_eq] at hk
      simpa using hk.1
    refine le_trans this ?_
    exact List.nodup_iff_count_le_one.mp List.nodup_range dpp

/-- A run of points changes the scan as one point does. -/
theorem scan_points (n : Nat) (acc : List (GlyphIndex × Bool)) :
    (List.replicate n pointChar).foldl scanChar acc = if n = 0 then acc else attachPoint acc := by
  induction n generalizing acc with
  | zero => rfl
  | succ n ih =>
    rw [List.replicate_succ, List.foldl_cons, ih]
    have : scanChar acc pointChar = attachPoint acc := by simp [scanChar]
    rw [this, if_neg (Nat.succ_ne_zero n)]
    split
    · rfl
    · cases acc <;> rfl

/-- The scan of displayed characters with their points. -/
theorem scan_shown (shown : List (Byte × Nat)) (acc : List (GlyphIndex × Bool)) (h : ∀ c ∈ shown, c.1 ≠ pointChar) :
    (shown.flatMap fun c => c.1 :: List.replicate c.2 pointChar).foldl scanChar acc =
      (shown.map fun c => (lookup c.1, c.2 != 0)).reverse ++ acc := by
  induction shown generalizing acc with
  | nil => rfl
  | cons c cs ih =>
    rw [List.flatMap_cons, List.foldl_append, List.foldl_cons, scan_points, ih _ (fun c hc => h c (List.mem_cons_of_mem _ hc))]
    have hc : c.1 ≠ pointChar := h c (List.mem_cons_self)
    simp only [scanChar, if_neg hc]
    by_cases h0 : c.2 = 0
    · simp [h0]
    · simp [h0, attachPoint]

/-- The scan of a text given by its displayed characters. -/
theorem scanText_textOf (leading : Nat) (shown : List (Byte × Nat)) (h : ∀ c ∈ shown, c.1 ≠ pointChar) :
    scanText (textOf leading shown) = shown.map fun c => (lookup c.1, c.2 != 0) := by
  rw [scanText, textOf, List.foldl_append, scan_points]
  have : (if leading = 0 then ([] : List (GlyphIndex × Bool)) else attachPoint []) = [] := by split <;> rfl
  rw [this, scan_shown shown [] h]; simp

/-- The scan displays the characters other than the point. -/
theorem scan_length (text : List Byte) (acc : List (GlyphIndex × Bool)) :
    (text.foldl scanChar acc).length = acc.length + (text.filter (· != pointChar)).length := by
  induction text generalizing acc with
  | nil => rfl
  | cons c cs ih =>
    rw [List.foldl_cons, ih]
    by_cases hc : c = pointChar
    · subst hc; cases acc <;> simp [scanChar, attachPoint]
    · have hb : (c != pointChar) = true := by simpa using hc
      rw [scanChar, if_neg hc, List.filter_cons, if_pos hb]
      simp only [List.length_cons]; omega

/-- The same for the whole text. -/
theorem scanText_length (text : List Byte) : (scanText text).length = (text.filter (· != pointChar)).length := by
  rw [scanText, List.length_reverse, scan_length]; simp

/-- Every displayed cell holds the glyph of some character. -/
theorem scan_cells (text : List Byte) (acc : List (GlyphIndex × Bool)) (h : ∀ c ∈ acc, ∃ b, c.1 = lookup b) :
    ∀ c ∈ text.foldl scanChar acc, ∃ b, c.1 = lookup b := by
  induction text generalizing acc with
  | nil => exact h
  | cons c cs ih =>
    refine ih _ ?_
    intro d hd
    unfold scanChar at hd
    split at hd
    · cases acc with
      | nil => cases hd
      | cons a as =>
        rcases List.mem_cons.mp hd with rfl | hd
        · exact h a List.mem_cons_self
        · exact h d (List.mem_cons_of_mem _ hd)
    · rcases List.mem_cons.mp hd with rfl | hd
      · exact ⟨c, rfl⟩
      · exact h d hd

/-- The same for the whole text. -/
theorem scanText_cells (text : List Byte) : ∀ c ∈ scanText text, ∃ b, c.1 = lookup b := by
  intro c hc
  exact scan_cells text [] (by simp) c (by simpa [scanText] using hc)

/-- FMTSTR of a text that fits. -/
theorem fmtStr_ok (text) (h : (scanText text).length ≤ 4) : fmtStr text = .frames (textFrames (scanText text)) := by
  simp only [fmtStr, textSignal]; rw [if_neg (by simp only [Config.digitsPerModule]; omega)]

/-- FMTSTR of one that does not. -/
theorem fmtStr_over (text) (h : 4 < (scanText text).length) : fmtStr text = .raised .overflow := by
  simp only [fmtStr, textSignal]; rw [if_pos (by simpa only [Config.digitsPerModule] using h)]

/-- The shape of the frames of a text. -/
theorem textFrames_shape (cells : List (GlyphIndex × Bool)) (h : cells.length ≤ 4) :
    (textFrames cells).length = cells.length ∧
    (textFrames cells).map (fun fr => fr.pos.toNat) =
      (List.range cells.length).map (fun i => cells.length - 1 - i) ∧
    ∀ fr ∈ textFrames cells, ∃ c ∈ cells, fr.g = c.1 := by
  refine ⟨by simp [textFrames], ?_, ?_⟩
  · apply List.ext_getElem
    · simp [textFrames]
    · intro i h1 h2
      simp [textFrames]
      simp at h2
      omega
  · intro fr hfr
    rw [textFrames, List.mem_mapIdx] at hfr
    obtain ⟨i, hi, rfl⟩ := hfr
    exact ⟨_, List.getElem_mem hi, rfl⟩

/-- LOOKUP gives a glyph index the table of characters names. -/
theorem lookup_ok (c : Byte) : (lookup c).toNat ≤ 28 ∧ lookup c ≠ 11 := by
  revert c; decide

/-- The frames of "OVF ". -/
theorem errorFrames_overflow :
    errorFrames .overflow = [⟨0, 3, false⟩, ⟨25, 2, false⟩, ⟨15, 1, false⟩, ⟨27, 0, false⟩] := by decide

/-- The frames of "NEG ". -/
theorem errorFrames_sign :
    errorFrames .sign = [⟨21, 3, false⟩, ⟨14, 2, false⟩, ⟨16, 1, false⟩, ⟨27, 0, false⟩] := by decide

end Sys2Proof.Machine
end

