-- ==== Sys2Proof/Laws/Numerics.lean ====
section
/-! SUPPORT. binary32 operands: fields, exact value, range tests and rounding (R92, R147, R148, R151). -/

namespace Sys2Proof.Machine

/-- The exponent as arithmetic on the pattern. -/
theorem f32Exponent_eq (f : Word) : f32Exponent f = f.toNat / 2^23 % 2^8 := by
  simp only [f32Exponent, BitVec.extractLsb'_toNat, Nat.shiftRight_eq_div_pow]

/-- The fraction as arithmetic on the pattern. -/
theorem f32Fraction_eq (f : Word) : f32Fraction f = f.toNat % 2^23 := by
  simp only [f32Fraction, BitVec.extractLsb'_toNat, Nat.shiftRight_eq_div_pow, Nat.pow_zero, Nat.div_one]

/-- The sign as arithmetic on the pattern. -/
theorem f32Sign_eq (f : Word) : f32Sign f = decide (2^31 ≤ f.toNat) := by
  have : f32Sign f = f.msb := by simp [f32Sign, BitVec.msb_eq_getLsbD_last]
  rw [this, BitVec.msb_eq_decide]

/-- Minus infinity is one pattern. -/
theorem isInfinite_sign (f : Word) : (isInfinite f = true ∧ f32Sign f = true) ↔ f = 0xFF800000 := by
  constructor
  · rintro ⟨h, hs⟩
    simp only [isInfinite, f32Exponent_eq, f32Fraction_eq, f32Sign_eq, Bool.and_eq_true, beq_iff_eq, decide_eq_true_eq] at h hs
    have := f.isLt
    apply BitVec.eq_of_toNat_eq
    simp; omega
  · rintro rfl; decide

/-- Plus infinity is one pattern. -/
theorem isInfinite_pos (f : Word) : (isInfinite f = true ∧ f32Sign f = false) ↔ f = 0x7F800000 := by
  constructor
  · rintro ⟨h, hs⟩
    simp only [isInfinite, f32Exponent_eq, f32Fraction_eq, f32Sign_eq, Bool.and_eq_true, beq_iff_eq, decide_eq_false_iff_not] at h hs
    have := f.isLt
    apply BitVec.eq_of_toNat_eq
    simp; omega
  · rintro rfl; decide

/-- The value is the signed magnitude in units of 2^-149. -/
theorem f32Value_eq (f : Word) : f32Value f = (if f32Sign f then -1 else 1) * ((f32Magnitude f : ℚ) / (f32Unit : ℚ)) := by
  unfold f32Value f32Magnitude f32Unit
  congr 1
  split
  · rw [zpow_neg]; push_cast; rw [div_eq_mul_inv]
  · rename_i h
    obtain ⟨e, he⟩ : ∃ e, f32Exponent f = e + 1 := ⟨f32Exponent f - 1, by omega⟩
    rw [he]
    push_cast
    rw [show ((e:ℤ) + 1 - 150) = (e:ℤ) - 149 by ring, zpow_sub₀ (by norm_num)]
    rw [mul_div_assoc, zpow_natCast]
    norm_num

/-- The unit is positive. -/
theorem unit_pos : (0:ℚ) < (f32Unit : ℚ) := by unfold f32Unit; positivity

/-- What is not NaN is finite or infinite. -/
theorem f32_finite_or_infinite (f : Word) (h : isNaN f = false) : f32Finite f = true ∨ isInfinite f = true := by
  unfold isNaN at h; unfold f32Finite isInfinite
  by_cases he : f32Exponent f = 255
  · right; simp [he] at h ⊢; exact h
  · left; simp [he]

/-- Infinite is not finite. -/
theorem infinite_not_finite (f : Word) (h : isInfinite f = true) : f32Finite f = false := by
  unfold isInfinite at h; unfold f32Finite; simp at h; simp [h.1]

/-- Finite is not infinite. -/
theorem finite_not_infinite (f : Word) (h : f32Finite f = true) : isInfinite f = false := by
  by_contra hc; rw [infinite_not_finite f (by simpa using hc)] at h; cases h

/-- Finite is not NaN. -/
theorem finite_not_nan (f : Word) (h : f32Finite f = true) : isNaN f = false := by
  unfold f32Finite at h; unfold isNaN; simp at h; simp [h]

/-- Negative values by sign and magnitude; -0 is not one. -/
theorem value_neg_iff (f : Word) : f32Value f < 0 ↔ (f32Sign f = true ∧ f32Magnitude f ≠ 0) := by
  rw [f32Value_eq]
  have hu := unit_pos
  have hm : (0:ℚ) ≤ (f32Magnitude f : ℚ) / f32Unit := by positivity
  cases f32Sign f
  · simp; exact hm
  · simp only [if_true, neg_one_mul, neg_lt_zero, true_and]
    constructor
    · intro h h0; rw [h0] at h; simp at h
    · intro h; positivity

/-- The negative test on finite patterns. -/
theorem isNegative_finite (f : Word) (h : f32Finite f = true) : isNegative f = true ↔ f32Value f < 0 := by
  rw [value_neg_iff]; simp [isNegative, finite_not_infinite f h]

/-- The space POW10 holds the powers of ten. -/
theorem pow10At_eq (e : Nat) (h : e ≤ 4) : pow10At e = 10^e := by
  interval_cases e <;> rfl

/-- A value not below 0 is its magnitude. -/
theorem value_nonneg_eq (f : Word) (h : 0 ≤ f32Value f) : f32Value f = (f32Magnitude f : ℚ) / f32Unit := by
  have hn := mt (value_neg_iff f).mpr (not_lt.mpr h)
  rw [f32Value_eq]
  by_cases hs : f32Sign f = true
  · have : f32Magnitude f = 0 := by by_contra h0; exact hn ⟨hs, h0⟩
    rw [this]; simp
  · simp [hs]

/-- The limit test is the comparison of the exact value. -/
theorem limit_iff (f : Word) (dpp : Nat) (hd : dpp ≤ 4) (h : 0 ≤ f32Value f) :
   pow10At (4 - dpp) * f32Unit ≤ f32Magnitude f ↔ (10:ℚ)^(4-dpp) ≤ f32Value f := by
  rw [value_nonneg_eq f h, le_div_iff₀ unit_pos, pow10At_eq _ (by omega)]
  norm_cast

/-- Powers of ten are positive. -/
theorem ten_pow_pos (n : Nat) : (0:ℚ) < 10^n := by positivity

/-- No signal for a scalable operand. -/
theorem fixedSignal_scalable (f : Word) (dpp : Nat) (hd : dpp ≤ 4) (h : Scalable f dpp) : fixedSignal f dpp = none := by
  obtain ⟨hf, h0, h1⟩ := h
  have a : isNegative f = false := by
    by_contra hc; exact absurd ((isNegative_finite f hf).mp (by simpa using hc)) (not_lt.mpr h0)
  have b : atOrAboveLimit f dpp = false := by
    simp only [atOrAboveLimit, finite_not_infinite f hf, Bool.false_or, decide_eq_false_iff_not]
    rw [limit_iff f dpp hd h0]; exact not_le.mpr h1
  simp [fixedSignal, a, b]

/-- SIGN below 0. -/
theorem fixedSignal_neg (f : Word) (dpp : Nat) (h : f = 0xFF800000 ∨ (f32Finite f = true ∧ f32Value f < 0)) :
    fixedSignal f dpp = some .sign := by
  have a : isNegative f = true := by
    rcases h with h | ⟨hf, hv⟩
    · subst h; decide
    · exact (isNegative_finite f hf).mpr hv
  simp [fixedSignal, a]

/-- OVERFLOW at or above the limit. -/
theorem fixedSignal_over (f : Word) (dpp : Nat) (hd : dpp ≤ 4)
    (h : f = 0x7F800000 ∨ (f32Finite f = true ∧ (10 : ℚ) ^ (4 - dpp) ≤ f32Value f)) :
    fixedSignal f dpp = some .overflow := by
  have a : isNegative f = false ∧ atOrAboveLimit f dpp = true := by
    rcases h with h | ⟨hf, hv⟩
    · subst h; exact ⟨by decide, by simp [atOrAboveLimit]; left; decide⟩
    · have h0 : 0 ≤ f32Value f := le_trans (ten_pow_pos _).le hv
      constructor
      · by_contra hc; exact absurd ((isNegative_finite f hf).mp (by simpa using hc)) (not_lt.mpr h0)
      · simp only [atOrAboveLimit, Bool.or_eq_true, decide_eq_true_eq]; right
        exact (limit_iff f dpp hd h0).mpr hv
  simp [fixedSignal, a]

/-- A pattern that is not NaN is negative, too large or scalable. -/
theorem fixed_cases (f : Word) (dpp : Nat) (h : isNaN f = false) :
    (f = 0xFF800000 ∨ (f32Finite f = true ∧ f32Value f < 0)) ∨
    (f = 0x7F800000 ∨ (f32Finite f = true ∧ (10 : ℚ) ^ (4 - dpp) ≤ f32Value f)) ∨ Scalable f dpp := by
  rcases f32_finite_or_infinite f h with hf | hi
  · by_cases h0 : f32Value f < 0
    · exact .inl (.inr ⟨hf, h0⟩)
    · by_cases h1 : (10 : ℚ) ^ (4 - dpp) ≤ f32Value f
      · exact .inr (.inl (.inr ⟨hf, h1⟩))
      · exact .inr (.inr ⟨hf, not_lt.mp h0, not_le.mp h1⟩)
  · by_cases hs : f32Sign f = true
    · exact .inl (.inl ((isInfinite_sign f).mp ⟨hi, hs⟩))
    · exact .inr (.inl (.inl ((isInfinite_pos f).mp ⟨hi, by simpa using hs⟩)))

/-- The scaled value in units of 2^-149. -/
theorem scaled_eq (f : Word) (dpp : Nat) (hd : dpp ≤ 4) (h : Scalable f dpp) :
   f32Value f * (10:ℚ)^dpp = ((f32Magnitude f * pow10At dpp : ℕ) : ℚ) / f32Unit := by
  rw [value_nonneg_eq f h.2.1, pow10At_eq _ hd]; push_cast; ring

/-- It is below 10000. -/
theorem scaled_lt (f : Word) (dpp : Nat) (hd : dpp ≤ 4) (h : Scalable f dpp) :
   f32Magnitude f * pow10At dpp < 10000 * f32Unit := by
  have h1 := h.2.2
  have : f32Value f * (10:ℚ)^dpp < 10000 := by
    calc f32Value f * (10:ℚ)^dpp < (10:ℚ)^(4-dpp) * 10^dpp := by
          exact mul_lt_mul_of_pos_right h1 (ten_pow_pos _)
      _ = 10000 := by rw [← pow_add, show 4 - dpp + dpp = 4 by omega]; norm_num
  rw [scaled_eq f dpp hd h, div_lt_iff₀ unit_pos] at this
  exact_mod_cast this

/-- Half-up rounding of a quotient. -/
theorem floor_half (x u : Nat) (hu : 0 < u) : ⌊(x : ℚ) / u + 1/2⌋ = (((2 * x + u) / (2 * u) : ℕ) : ℤ) := by
  have : (x : ℚ) / u + 1/2 = ((2 * x + u : ℕ) : ℚ) / ((2 * u : ℕ) : ℚ) := by
    have : (u:ℚ) ≠ 0 := by positivity
    push_cast; field_simp
  rw [this, Rat.floor_natCast_div_natCast]
  push_cast; rfl

/-- binary32 rounding is off by at most half a unit in the last place. -/
theorem roundBinary32_close (x : Nat) :
    2 * roundBinary32 x ≤ 2 * x + 2 ^ (Nat.log2 x - 23) ∧ 2 * x ≤ 2 * roundBinary32 x + 2 ^ (Nat.log2 x - 23) := by
  simp only [roundBinary32, roundSignificand, Nat.div_one, one_mul]
  generalize hs : 2 ^ (Nat.log2 x - 23) = step
  have hpos : 0 < step := by rw [← hs]; positivity
  have hdm := Nat.div_add_mod x step
  have hlt := Nat.mod_lt x hpos
  generalize x / step = q at *
  generalize x % step = r at *
  split
  · rename_i h
    have : step ≤ 2 * r := by omega
    have e : (q + 1) * step = step * q + step := by ring
    rw [e]; omega
  · rename_i h
    have : 2 * r ≤ step := by omega
    have e : q * step = step * q := by ring
    rw [e]; omega

/-- Below 2^14 that is at most 2^-11. -/
theorem roundBinary32_error (x : Nat) (h : x < 2 ^ 163) :
    2 * roundBinary32 x ≤ 2 * x + 2 ^ 139 ∧ 2 * x ≤ 2 * roundBinary32 x + 2 ^ 139 := by
  have hl : Nat.log2 x - 23 ≤ 139 := by
    by_cases h0 : x = 0
    · subst h0; decide
    · have := (Nat.log2_lt h0 (k := 163)).mpr h
      omega
  have hp : 2 ^ (Nat.log2 x - 23) ≤ 2 ^ 139 := Nat.pow_le_pow_right (by omega) hl
  have := roundBinary32_close x
  omega

end Sys2Proof.Machine
end

