-- ==== Sys2Proof/Laws/Ops.lean ====
section
/-! SUPPORT. The shared operations of a print: what each does to the whole state (R21, R23, R140, R185, R234). -/

namespace Sys2Proof.Machine

/-- Loading frames and starting the drive. -/
theorem beginDrive_loadFrames (seq : FrameSeq) (s : State) :
    DriveBegun seq s.refreshRate s (beginDrive (loadFrames seq s)) := by
  refine ⟨?_, rfl⟩
  intro k
  rw [beginDrive_frame, loadFrames_frame]; rfl

/-- Everything the error path does to the state. -/
theorem errPath_begins (sig : Signal) (s : State) :
    DriveBegun (errorFrames sig) s.config.defaultRefresh s (errPath sig s) := by
  refine ⟨?_, rfl⟩
  intro k
  rw [errPath, beginDrive_frame, loadFrames_frame]; rfl

/-- Everything a print does after its formatter. -/
theorem showFormatted_begins (r : Formatted) (s : State) :
    DriveBegun (framesShown r) (windowOf s.config r s.refreshRate) s (showFormatted r s) := by
  cases r with
  | frames seq => exact beginDrive_loadFrames seq s
  | raised sig => exact errPath_begins sig s

/-- Reading the buffer of a drive just begun. -/
theorem begun_frame {seq rate s t} (h : DriveBegun seq rate s t) (k : BitVec 2) :
    t.frame k = (seq[k.toNat]?).getD (s.frame k) := h.1 k.toFin

/-- What every frame sequence shown satisfies. -/
def Legal (seq : FrameSeq) : Prop := seq.length ≤ 4 ∧ (∀ fr ∈ seq, fr.g.toNat ≤ 28 ∧ fr.g ≠ 11) ∧
  (seq.map (fun fr => fr.pos.toNat) = List.range seq.length ∨
   seq.map (fun fr => fr.pos.toNat) = (List.range seq.length).map fun i => seq.length - 1 - i)

/-- Frames of an integer are legal. -/
theorem legal_int (pa N dpp) (hN : N ≤ 9999) (hd : dpp ≤ 4) : Legal (integerFrames pa N dpp) := by
  obtain ⟨a, b, c, d, e⟩ := integerFrames_shape pa N dpp hN hd
  refine ⟨a, ?_, .inl c⟩
  intro fr hfr
  have := d fr hfr
  refine ⟨by omega, ?_⟩
  rintro h; rw [h] at this; simp at this

/-- Frames of a text are legal. -/
theorem legal_text (text) (h : (scanText text).length ≤ 4) : Legal (textFrames (scanText text)) := by
  obtain ⟨a, b, c⟩ := textFrames_shape (scanText text) h
  refine ⟨by omega, ?_, .inr (by rw [b, a])⟩
  intro fr hfr
  obtain ⟨cell, hcell, e⟩ := c fr hfr
  obtain ⟨b, hb⟩ := scanText_cells text cell hcell
  rw [e, hb]; exact lookup_ok b

/-- Frames of the error text are legal. -/
theorem errorFrames_legal (sg) : Legal (errorFrames sg) := by
  cases sg
  · rw [errorFrames_overflow]; refine ⟨by decide, by decide, .inr (by decide)⟩
  · rw [errorFrames_sign]; refine ⟨by decide, by decide, .inr (by decide)⟩

/-- Every print shows a legal sequence. -/
theorem shown_legal (cfg i r) (h : printOf cfg i = some r)
    (hw : ∀ f dpp, i = .printf f dpp → isNaN f = false ∧ dpp.toNat ≤ 4) : Legal (framesShown r) := by
  cases r with
  | raised sg => exact errorFrames_legal sg
  | frames seq =>
    show Legal seq
    cases i with
    | construct _ => cases h
    | setrate _ => cases h
    | getrate => cases h
    | printi v =>
      simp only [printOf, Option.some.injEq] at h
      obtain ⟨h0, h1, rfl⟩ := fmtInt_frames _ _ _ _ h
      exact legal_int _ _ _ (by omega) (by omega)
    | printf f dpp =>
      simp only [printOf, Option.some.injEq, fmtFix] at h
      split at h
      · cases h
      · obtain ⟨h0, h1, rfl⟩ := fmtInt_frames _ _ _ _ h
        exact legal_int _ _ _ (by omega) (hw f dpp rfl).2
    | prints text =>
      simp only [printOf, Option.some.injEq] at h
      by_cases hl : (scanText text).length ≤ 4
      · rw [fmtStr_ok _ hl] at h; cases h; exact legal_text text hl
      · rw [fmtStr_over text (by omega)] at h; cases h

/-- A legal sequence, loaded, makes the frame buffer legal. -/
theorem legal_loaded (seq : FrameSeq) (s : State) (h : Legal seq) (t : State) (hn : t.ndig = BitVec.ofNat 3 seq.length)
   (hf : ∀ k : BitVec 2, t.frame k = (seq[k.toNat]?).getD (s.frame k)) : FramesLegal t := by
  obtain ⟨h4, hg, hp⟩ := h
  have hnn : t.ndig.toNat = seq.length := by rw [hn, BitVec.toNat_ofNat]; omega
  have hfr : ∀ k : Fin 4, (hk : k.val < seq.length) → t.frame (BitVec.ofFin k) = seq[k.val] := by
    intro k hk
    have := hf (BitVec.ofFin k)
    rw [this]
    show (seq[k.val]?).getD _ = _
    rw [List.getElem?_eq_getElem hk]; rfl
  have hgk : ∀ k : Fin 4, (hk : k.val < seq.length) → t.fg[k.val] = seq[k.val].g := fun k hk => congrArg DigitFrame.g (hfr k hk)
  have hpk : ∀ k : Fin 4, (hk : k.val < seq.length) → t.fp[k.val] = seq[k.val].pos := fun k hk => congrArg DigitFrame.pos (hfr k hk)
  refine ⟨by omega, ?_, ?_⟩
  · intro k hk
    rw [hnn] at hk
    rw [hgk k hk]
    exact hg _ (List.getElem_mem hk)
  · rcases hp with hp | hp
    · left; intro k hk; rw [hnn] at hk
      rw [hpk k hk]
      have : (seq.map (fun fr => fr.pos.toNat))[k.val]? = (List.range seq.length)[k.val]? := by rw [hp]
      simpa [hk, List.getElem?_eq_getElem] using this
    · right; intro k hk; rw [hnn] at hk
      rw [hpk k hk, hnn]
      have : (seq.map (fun fr => fr.pos.toNat))[k.val]? = ((List.range seq.length).map fun i => seq.length - 1 - i)[k.val]? := by rw [hp]
      simpa [hk, List.getElem?_eq_getElem] using this

/-- The window of a print fits the width, as the registers do. -/
theorem windowOf_lt {s : State} (h : TimesFit s) (r : Formatted) : windowOf s.config r s.refreshRate < 2 ^ s.config.wT := by
  cases r with
  | frames _ => exact h.1
  | raised _ => exact h.2.2

/-- A drive begun on a legal sequence keeps the invariant. -/
theorem inv_of_begun {seq rate s t} (hI : MachineInvariant s) (hc : s.constructed = true)
    (hl : Legal seq) (hr : rate < 2 ^ s.config.wT) (h : DriveBegun seq rate s t) : MachineInvariant t := by
  have hf := begun_frame h
  have e := h.2
  have hn : t.ndig = BitVec.ofNat 3 seq.length := by rw [e]
  refine ⟨fun _ => by rw [e]; exact hc, fun _ => legal_loaded seq s hl t hn hf, fun _ => ?_, ?_, ?_, ?_⟩
  · have : t.scan = 0 := by rw [e]
    split
    · exact this
    · rename_i h0
      rw [this]
      have : t.ndig.toNat ≠ 0 := fun hh => h0 (BitVec.eq_of_toNat_eq (by simpa using hh))
      simp; omega
  · rw [e]; exact hI.2.2.2.1
  · rw [e]; exact hI.2.2.2.2.1
  · rw [e]; exact ⟨hr, toWidth_lt _ _, hI.2.2.2.2.2.2.2⟩

end Sys2Proof.Machine
end

