-- ==== Sys2Proof/Laws/PerInstr.lean ====
section
/-! SUPPORT. A statement for every instruction: the length that the decoder's length rule reads from an encoded
operation is the number of its bytes (R103). -/

namespace Sys2Proof.Laws

/-- A well-formed operation's bytes are as many as its first two bytes say. -/
def EncodedLength.Statement (i : Instr) : Prop :=
  i.wellFormed = true → operationLength (encode i) = some (encode i).length

theorem EncodedLength.construct (pol : Polarity) : EncodedLength.Statement (.construct pol) := fun _ => rfl

theorem EncodedLength.setrate (ms : Word) : EncodedLength.Statement (.setrate ms) := fun _ => rfl

theorem EncodedLength.getrate : EncodedLength.Statement .getrate := fun _ => rfl

theorem EncodedLength.printi (v : Word) : EncodedLength.Statement (.printi v) := fun _ => rfl

theorem EncodedLength.printf (f : Word) (dpp : Byte) : EncodedLength.Statement (.printf f dpp) := fun _ => rfl

theorem EncodedLength.prints (text : List Byte) : EncodedLength.Statement (.prints text) := by
  intro h
  have hl := Machine.length_byte_toNat text (by simpa [Instr.wellFormed] using h)
  show some (2 + (BitVec.ofNat 8 text.length).toNat) = some (text.length + 1 + 1)
  rw [hl, Nat.add_comm]

end Sys2Proof.Laws
end

