-- ==== Sys2Proof/Machine/Assembler.lean ====
section
/-! DEFINITION. The written form of the operations (R107, R108 a): one line of character codes (R84) to one
operation. It spells operations; it gives them no meaning, and it spells reserved operands too. -/

namespace Sys2Proof.Machine

/-- The value of a decimal or hexadecimal digit character. -/
def digitValue (c : Byte) : Option Nat :=
  if 0x30 ≤ c.toNat ∧ c.toNat ≤ 0x39 then some (c.toNat - 0x30)
  else if 0x41 ≤ c.toNat ∧ c.toNat ≤ 0x46 then some (c.toNat - 0x41 + 10)
  else if 0x61 ≤ c.toNat ∧ c.toNat ≤ 0x66 then some (c.toNat - 0x61 + 10)
  else none

/-- Read digits in a base: the value so far, how many were read, the rest of the line. -/
def readDigits (base : Nat) : Nat → Nat → List Byte → Nat × Nat × List Byte
  | value, read, [] => (value, read, [])
  | value, read, c :: cs =>
    match digitValue c with
    | none => (value, read, c :: cs)
    | some d => if d < base then readDigits base (value * base + d) (read + 1) cs else (value, read, c :: cs)

/-- Drop leading spaces. -/
def skipSpaces (line : List Byte) : List Byte := line.dropWhile (· == 0x20)

/-- The rest of the line after a given prefix. -/
def afterWord (word line : List Byte) : Option (List Byte) :=
  if word.isPrefixOf line then some (line.drop word.length) else none

/-- Nothing follows but spaces and a comment after ';'. -/
def lineEnds (line : List Byte) : Bool :=
  match skipSpaces line with
  | [] => true
  | c :: _ => c == 0x3B

/-- A decimal number. -/
def readDecimal (line : List Byte) : Option (Nat × List Byte) :=
  match readDigits 10 0 0 line with
  | (_, 0, _) => none
  | (value, _ + 1, rest) => some (value, rest)

/-- A decimal number, or a hexadecimal one after `0x`. -/
def readNumber (line : List Byte) : Option (Nat × List Byte) :=
  match afterWord [0x30, 0x78] line with
  | none => readDecimal line
  | some digits =>
    match readDigits 16 0 0 digits with
    | (_, 0, _) => none
    | (value, _ + 1, rest) => some (value, rest)

/-- The binary32 pattern nearest to the quotient `num / den`, ties to even, with a sign (R107); a quotient
beyond the format gives infinity. -/
def nearestBinary32 (negative : Bool) (num den : Nat) : Word :=
  let (q, shift) := roundSignificand (num * f32Unit) den
  BitVec.ofNat 32 ((if negative then 2 ^ 31 else 0) + min (shift * 2 ^ 23 + q) 0x7F800000)

/-- The magnitude of a decimal real: digits, and digits after an optional '.'. -/
def readReal (negative : Bool) (line : List Byte) : Option (Word × List Byte) := do
  let (whole, rest) ← readDecimal line
  match rest with
  | 0x2E :: fraction =>
    let (value, places, rest) := readDigits 10 whole 0 fraction
    some (nearestBinary32 negative value (10 ^ places), rest)
  | rest => some (nearestBinary32 negative whole 1, rest)

/-- The float operand of PRINTF: a decimal real with an optional '-', or a 0x pattern (R107). -/
def readFloat (line : List Byte) : Option (Word × List Byte) :=
  match afterWord [0x30, 0x78] line, line with
  | some _, _ => do
    let (pattern, rest) ← readNumber line
    if pattern < 2 ^ 32 then some (BitVec.ofNat 32 pattern, rest) else none
  | none, 0x2D :: digits => readReal true digits
  | none, digits => readReal false digits

/-- The operand of PRINTI: decimal with an optional '-', in the range of 32 bits (R91, R100). -/
def readInteger (line : List Byte) : Option (Word × List Byte) :=
  match line with
  | 0x2D :: digits => do
    let (value, rest) ← readDecimal digits
    if value ≤ 2 ^ 31 then some (BitVec.ofInt 32 (-(value : Int)), rest) else none
  | digits => do
    let (value, rest) ← readDecimal digits
    if value < 2 ^ 31 then some (BitVec.ofNat 32 value, rest) else none

/-- A mnemonic at the start of the line, followed by a space or the end, and what is after the spaces. -/
def afterMnemonic (word line : List Byte) : Option (List Byte) := do
  let rest ← afterWord word line
  if rest.head? == some 0x20 || lineEnds rest then some (skipSpaces rest) else none

/-- CONSTRUCT, with no operand ANODE (R108 a). -/
def assembleConstruct (operand : List Byte) : Option Instr :=
  if lineEnds operand then some .constructDefault
  else
    match afterMnemonic [0x41, 0x4E, 0x4F, 0x44, 0x45] operand,
      afterMnemonic [0x43, 0x41, 0x54, 0x48, 0x4F, 0x44, 0x45] operand with
    | some rest, _ => if lineEnds rest then some (.construct .anode) else none
    | none, some rest => if lineEnds rest then some (.construct .cathode) else none
    | none, none => none

/-- SETRATE: a number of the 32 bits the port carries (R98). -/
def assembleSetrate (operand : List Byte) : Option Instr := do
  let (ms, rest) ← readNumber operand
  if ms < 2 ^ 32 ∧ lineEnds rest then some (.setrate (BitVec.ofNat 32 ms)) else none

/-- PRINTI. -/
def assemblePrinti (operand : List Byte) : Option Instr := do
  let (v, rest) ← readInteger operand
  if lineEnds rest then some (.printi v) else none

/-- PRINTF: the float, a comma, then dpp. -/
def assemblePrintf (operand : List Byte) : Option Instr := do
  let (f, rest) ← readFloat operand
  let rest ← afterWord [0x2C] (skipSpaces rest)
  let (dpp, rest) ← readDecimal (skipSpaces rest)
  if dpp < 2 ^ 8 ∧ lineEnds rest then some (.printf f (BitVec.ofNat 8 dpp)) else none

/-- PRINTS: the characters between the quotes. -/
def assemblePrints (operand : List Byte) : Option Instr := do
  let quoted ← afterWord [0x22] operand
  let text := quoted.takeWhile (· != 0x22)
  let rest ← afterWord [0x22] (quoted.drop text.length)
  if text.length ≤ 255 ∧ lineEnds rest then some (.prints text) else none

/-- One line of the written form (R107); none where it spells no operation. -/
def assemble (line : List Byte) : Option Instr :=
  let line := skipSpaces line
  match afterMnemonic [0x43, 0x4F, 0x4E, 0x53, 0x54, 0x52, 0x55, 0x43, 0x54] line with
  | some operand => assembleConstruct operand
  | none =>
    match afterMnemonic [0x53, 0x45, 0x54, 0x52, 0x41, 0x54, 0x45] line with
    | some operand => assembleSetrate operand
    | none =>
      match afterMnemonic [0x47, 0x45, 0x54, 0x52, 0x41, 0x54, 0x45] line with
      | some operand => if lineEnds operand then some .getrate else none
      | none =>
        match afterMnemonic [0x50, 0x52, 0x49, 0x4E, 0x54, 0x49] line with
        | some operand => assemblePrinti operand
        | none =>
          match afterMnemonic [0x50, 0x52, 0x49, 0x4E, 0x54, 0x46] line with
          | some operand => assemblePrintf operand
          | none =>
            match afterMnemonic [0x50, 0x52, 0x49, 0x4E, 0x54, 0x53] line with
            | some operand => assemblePrints operand
            | none => none

end Sys2Proof.Machine
end

