-- ==== Sys2Proof/Tests/Slice0.lean ====
section
/-! SUPPORT. Tests with the vectors of spec/95_test_vectors.md, the smoke of WellFormed, and for every obligation
with hypotheses a witness that meets them. -/

namespace Sys2Proof.Tests

open Sys2Proof Sys2Proof.Machine

/-! ## States the tests use -/

/-- A constructed machine in IDLE with the rate 250. -/
def ready : State := { State.reset with constructed := true, refreshRate := 250 }

/-- The machine of program P1 (95_test_vectors.md) before its print, GETRATE after it: rate 2, samples 100,
then 100, 101, 101, 102, then 103. -/
def beforePrint : State :=
  { ready with refreshRate := 2, port := [0x03, 0x0A, 0x00, 0x00, 0x00, 0x02], advances := [100, 0, 1, 0, 1, 1, 7] }

/-- A drive of "10" at rate 2 from sample 100, with frame 1 next. -/
def driving : State :=
  { ready with
    refreshRate := 2, phase := .drive, fg := #v[0, 1, 0, 0], fp := #v[0, 1, 0, 0], ndig := 2, scan := 1,
    tStart := 100, trueTime := 100, port := [0x02] }

/-- One field of the next state. -/
def onNext {α : Type} (o : Outcome) (g : State → α) : Option α :=
  match o with
  | .next t => some (g t)
  | .fault _ => none
  | .refused _ => none

/-- The reason of a refusal. -/
def refusal (o : Outcome) : Option Refusal :=
  match o with
  | .next _ => none
  | .fault _ => none
  | .refused r => some r

/-- The words of the frames of a result under ANODE with the default table. -/
def anodeWords : Formatted → List Word16
  | .frames seq => wordsOf defaultGlyphRom .anode seq
  | .raised _ => []

/-- The codes of a text. -/
def codes (text : String) : List Byte := text.toList.map fun c => BitVec.ofNat 8 c.toNat

/-! ## WellFormed: one ill-formed term for each check (R92, R93, R94) -/

theorem test_wellFormed_refuses_nan : Instr.wellFormed (.printf 0x7FC00000 0) = false := by decide
theorem test_wellFormed_refuses_dpp_5 : Instr.wellFormed (.printf 0x3F800000 5) = false := by decide
theorem test_wellFormed_refuses_256_characters : Instr.wellFormed (.prints (List.replicate 256 0x20)) = false := by
  simp only [Instr.wellFormed, List.length_replicate]; decide
theorem test_wellFormed_accepts_255_characters : Instr.wellFormed (.prints (List.replicate 255 0x20)) = true := by
  simp only [Instr.wellFormed, List.length_replicate]; decide
theorem test_wellFormed_accepts_infinity : Instr.wellFormed (.printf 0x7F800000 4) = true := by decide

/-! ## Decode: words written out from R97 to R102 -/

theorem test_decode_construct : decodeTableWord 16 0x0100 = some (.construct .cathode) := by decide
theorem test_decode_setrate : decodeTableWord 40 0x000000FA01 = some (.setrate 250) := by decide
theorem test_decode_getrate : decodeTableWord 8 0x02 = some .getrate := by decide
theorem test_decode_printi : decodeTableWord 40 0xFFFFFFF603 = some (.printi (-10)) := by decide
theorem test_decode_printf : decodeTableWord 48 0x024145851F04 = some (.printf 0x4145851F 2) := by decide
theorem test_decode_prints : decodeTableWord 8 0x05 = some (.prints []) := by decide
theorem test_decode_prints_text : decode [0x05, 0x03, 0x4B, 0x20, 0x58] = .operation (.prints (codes "K X")) [] := by
  decide
theorem test_decode_prints_incomplete : decode [0x05, 0x02, 0x41] = .incomplete := by decide
theorem test_decode_reserved_opcode : decode [0x06] = .invalid .reservedOpcode := by decide
theorem test_decode_reserved_polarity : decode [0x00, 0x02] = .invalid .reservedPolarity := by decide
theorem test_decode_nan : decode [0x04, 0x00, 0x00, 0xC0, 0x7F, 0x00] = .invalid .floatIsNaN := by decide
theorem test_decode_dpp_5 : decode [0x04, 0x00, 0x00, 0x80, 0x3F, 0x05] = .invalid .reservedDpp := by decide

/-! ## One step of each operation (H1 to H19) -/

theorem test_construct_H2 :
    onNext (step (State.reset.withFetchWord 16 0x0100)) (fun t => (t.polarity, t.refreshRate, t.constructed, t.txlog)) =
      some (.cathode, 10000, true, []) := by decide
theorem test_construct_twice_H5 : refusal (step (ready.withFetchWord 16 0x0100)) = some .alreadyConstructed := by decide
theorem test_setrate_H8 :
    onNext (step (ready.withFetchWord 40 0xFFFFFFFF01)) (fun t => (t.refreshRate, t.port)) =
      some (0xFFFFFFFF, []) := by decide
theorem test_setrate_before_construct_H4 :
    refusal (step (State.reset.withFetchWord 40 0x0000000501)) = some .notConstructed := by decide
theorem test_getrate_H9 :
    onNext (step (ready.withFetchWord 8 0x02)) (·.response) = some [0xFA, 0x00, 0x00, 0x00] := by decide
/-- A clock of 8 bits: the rate is held in 8 bits too (log 23), and D17's two widths are one. -/
theorem test_setrate_at_8_bits :
    onNext (exec (.setrate 0x1FF) { ready with config := { defaultConfig with wT := 8 } }) (·.refreshRate) = some 0xFF := by
  decide
/-- R94 with a limit of 2 characters: the third is one too many (log 23). -/
theorem test_prints_above_strMax :
    refusal (exec (.prints (codes "123")) { ready with config := { defaultConfig with strMax := 2 } }) =
      some .textAboveMax := by decide
/-- The sign is that of `XLEN_I` bits: the pattern 0x80 is -128 at 8 bits. -/
theorem test_integerValue_widths : integerValue 8 0x80 = -128 ∧ integerValue 32 0xFFFFFFFF = -1 ∧
    integerValue 64 0x80000000 = -2147483648 ∧ integerValue 16 0x1FFFF = -1 := by decide
theorem test_printi_H11 :
    onNext (step (({ ready with advances := [7] } : State).withFetchWord 40 0xFFFFFFFF03))
      (fun t => (t.refreshRate, t.fg, t.fp, t.tStart, t.phase)) =
      some (10000, #v[21, 14, 16, 27], #v[3, 2, 1, 0], 7, .drive) := by decide
theorem test_printi_H17 :
    onNext (step (({ ready with advances := [7] } : State).withFetchWord 40 0x000004D203))
      (fun t => (t.refreshRate, t.fg, t.fp, t.ndig, t.scan)) =
      some (250, #v[4, 3, 2, 1], #v[0, 1, 2, 3], 4, 0) := by decide
theorem test_printf_H18 :
    onNext (step (({ ready with advances := [7] } : State).withFetchWord 48 0x024145851F04))
      (fun t => (t.fg, t.fd, t.ndig)) = some (#v[5, 3, 2, 1], #v[false, false, true, false], 4) := by decide
theorem test_printf_H14 : refusal (exec (.printf 0x3F800000 5) ready) = some .reservedDpp := by decide
theorem test_prints_H12 :
    onNext (exec (.prints (codes "12345")) { ready with advances := [7] }) (fun t => (t.refreshRate, t.fg)) =
      some (10000, #v[0, 25, 15, 27]) := by decide
theorem test_errPath_defaultRefresh :
    (errPath .sign { ready with config := { defaultConfig with defaultRefresh := 7 } }).refreshRate = 7 := by decide
theorem test_prints_H19 :
    onNext (step (({ ready with advances := [7] } : State).withFetchWord 8 0x05)) (fun t => (t.ndig, t.phase)) =
      some (0, .drive) := by decide

/-! ## Units (sections 2.1 to 2.8) -/

theorem test_lookup_just_outside : (lookup 0x2F, lookup 0x3A, lookup 0x40, lookup 0x5B, lookup 0x60, lookup 0x7B,
    lookup 0xC1, lookup 0x2E) = (27, 27, 27, 27, 27, 27, 27, 27) := by decide
theorem test_bitrev_35 : bitrev 0x35 = 0xAC := by decide
theorem test_fmtInt_boundary_zero : fmtInt defaultConfig 5 2 = .frames [⟨5, 0, false⟩, ⟨0, 1, false⟩, ⟨0, 2, true⟩] := by
  decide
theorem test_fmtInt_words : anodeWords (fmtInt defaultConfig 1005 0) = [0xB6EF, 0xFCDF, 0xFCBF, 0x607F] := by decide
theorem test_fmtFix_words :
    anodeWords (fmtFix defaultConfig 0x4145851F 2) = [0xB6EF, 0xF2DF, 0xDBBF, 0x607F] := by decide
theorem test_fmtFix_tie_goes_up : fmtFix defaultConfig 0x40200000 0 = .frames [⟨3, 0, false⟩] := by decide
theorem test_fmtFix_rounds_over : fmtFix defaultConfig 0x3F7FFD61 4 = .raised .overflow := by decide
theorem test_fmtFix_smallest_negative : fmtFix defaultConfig 0x80000001 0 = .raised .sign := by decide
theorem test_fmtFix_minus_zero : fmtFix defaultConfig 0x80000000 1 = .frames [⟨0, 0, false⟩, ⟨0, 1, true⟩] := by decide
theorem test_scaleRound_exact : scaleRound .exact 0x3F80A3D7 2 = 100 ∧ scaleRound .exact 0x3EFFFFFF 0 = 0 := by decide
theorem test_scaleRound_perOperation : scaleRound .binary32PerOperation 0x3F80A3D7 2 = 101 ∧
    scaleRound .binary32PerOperation 0x3EFFFFFF 0 = 1 ∧ scaleRound .binary32PerOperation 0x4145851F 2 = 1235 := by decide
theorem test_fmtStr_points : anodeWords (fmtStr (codes "1.2.3.")) = [0x61BF, 0xDBDF, 0xF3EF] := by decide
theorem test_fmtStr_corner_points :
    fmtStr (codes ".5") = .frames [⟨5, 0, false⟩] ∧ fmtStr (codes "1..2") = .frames [⟨1, 1, true⟩, ⟨2, 0, false⟩] := by
  decide
theorem test_fmtStr_blanks_count : fmtStr (codes "    X") = .raised .overflow := by decide
theorem test_encode_R170 : encodeWord 0xFC 2 true .cathode = 0x0240 := by decide
theorem test_encode_rom_bit0 : encodeWord 0xFF 1 false .anode = 0xFFDF := by decide
theorem test_wire_66EF : wireBits .msbFirstManualReversal 0x66EF =
    [true, true, true, true, false, true, true, true, false, true, true, false, false, true, true, false] := by decide

/-- M1: elapsed equal to the rate still commits, and `SCAN` wraps. -/
theorem test_drive_M1_commits : onNext (step { driving with advances := [2] }) (fun t => (t.txlog, t.latch, t.scan)) =
    some ([0x60DF], 0x60DF, 0) := by decide
/-- M1: one more ends the drive. -/
theorem test_drive_M1_ends : onNext (step { driving with advances := [3] }) (fun t => (t.txlog, t.phase)) =
    some ([], .idle) := by decide
/-- M5: the clock wraps inside the window. -/
theorem test_drive_M5_wrap :
    onNext (step { driving with refreshRate := 3, tStart := 0xFFFFFFFE, trueTime := 0xFFFFFFFE, advances := [3] })
      (fun t => (t.txlog, t.phase)) = some ([0x60DF], .drive) := by decide
/-- M5 at a width of 4 bits: the samples 14 and 2 are 4 apart. -/
theorem test_deadline_wraps_at_4_bits : deadlinePassed 4 3 2 14 = true ∧
    deadlinePassed 4 4 2 14 = false := by decide
/-- M6: an empty sequence waits. -/
theorem test_drive_M6_empty : onNext (step { driving with ndig := 0, scan := 0, advances := [2] })
    (fun t => (t.txlog, t.phase)) = some ([], .drive) := by decide

/-! ## The written form (R107, R108) -/

theorem test_assemble_printf : assemble (codes "PRINTF 12.345, 2") = some (.printf 0x4145851F 2) := by decide
theorem test_assemble_printi : assemble (codes "PRINTI -10 ; ten") = some (.printi 0xFFFFFFF6) := by decide
theorem test_assemble_prints : assemble (codes "PRINTS \"K X\"") = some (.prints (codes "K X")) := by decide
theorem test_assemble_construct : assemble (codes "CONSTRUCT") = some (.construct .anode) := by decide

/-! ## What is below: the witnesses -/

/-- What the range tests let through is scalable. -/
theorem scalable_of_no_signal (f : Word) (dpp : Nat) (hn : isNaN f = false) (hd : dpp ≤ 4)
    (h : fixedSignal f dpp = none) : Scalable f dpp := by
  rcases fixed_cases f dpp hn with hc | hc | hc
  · rw [fixedSignal_neg f dpp hc] at h; cases h
  · rw [fixedSignal_over f dpp hd hc] at h; cases h
  · exact hc

theorem value_seven : f32Value 0x40E00000 = 7 := by
  have e : f32Exponent 0x40E00000 = 129 := by decide
  have m : f32Fraction 0x40E00000 = 6291456 := by decide
  have n : f32Sign 0x40E00000 = false := by decide
  simp only [f32Value, e, m, n]; norm_num

theorem scalable_seven : Scalable 0x40E00000 0 := scalable_of_no_signal _ _ (by decide) (by decide) (by decide)

/-- The invariant holds of a drive in the middle, of one whose first frame comes next, and of an empty one. -/
theorem test_invariant_driving : MachineInvariant driving :=
  ⟨fun _ => rfl, fun _ => by decide, fun _ => by decide, nofun, nofun, by decide⟩
theorem test_invariant_driving_first (a : List Nat) (r : Nat) (hr : r < 2 ^ 32) :
    MachineInvariant { driving with scan := 0, advances := a, refreshRate := r } :=
  ⟨fun _ => rfl, fun _ => test_invariant_driving.2.1 rfl,
    fun _ => by show (if (2 : BitVec 3) = 0 then (0 : BitVec 2) = 0 else (0 : BitVec 2).toNat < (2 : BitVec 3).toNat); decide,
    nofun, nofun, hr, test_invariant_driving.2.2.2.2.2.2⟩
theorem test_invariant_driving_empty : MachineInvariant { driving with ndig := 0, scan := 0 } :=
  ⟨fun _ => rfl, fun _ => by decide, fun _ => by decide, nofun, nofun, by decide⟩
theorem test_invariant_driving_committed :
    MachineInvariant { driving with txlog := [0xFCEF, 0x60DF], latch := 0x60DF } :=
  ⟨fun _ => rfl, test_invariant_driving.2.1, test_invariant_driving.2.2.1, fun w h => by cases h; rfl, fun w h => by
    rcases List.mem_cons.mp h with rfl | h
    · exact ⟨0, by decide⟩
    · rw [List.mem_singleton.mp h]; exact ⟨1, by decide⟩, test_invariant_driving.2.2.2.2.2⟩
theorem test_invariant_ready : MachineInvariant ready := ⟨nofun, nofun, nofun, nofun, nofun, by decide⟩

theorem test_witness_ResetAwaitsConstruct : ∀ pol, Instr.getrate ≠ .construct pol := nofun
theorem test_witness_StepKeepsInvariant : MachineInvariant { driving with scan := 0, advances := [2] } ∧
    ∃ t, step { driving with scan := 0, advances := [2] } = .next t :=
  ⟨test_invariant_driving_first _ _ (by decide), _, rfl⟩
theorem test_witness_DecodeOfEncodeIsTheOperation :
    Instr.wellFormed (.printf 0xFF800000 4) = true ∧ Instr.wellFormed (.prints (List.replicate 255 0x2E)) = true :=
  ⟨by decide, by simp only [Instr.wellFormed, List.length_replicate]; decide⟩
theorem test_witness_DecodedBytesSpellTheOperation : decode [0x00, 0x00, 0xFF] = .operation (.construct .anode) [0xFF] := by
  decide
theorem test_witness_ProperPrefixIsIncomplete :
    Instr.wellFormed (.prints [0x41]) = true ∧ 2 < (encode (.prints [0x41])).length ∧
    Instr.wellFormed (.getrate) = true ∧ 0 < (encode .getrate).length := by decide
theorem test_witness_ReservedEncodingsAreRefused_phase : ready.phase = .idle := rfl
theorem test_witness_ReservedEncodingsAreRefused_opcode :
    6 ≤ (0x06 : Byte).toNat ∧ 6 ≤ (0xFF : Byte).toNat ∧ ({ ready with port := [0x06] } : State).port = 0x06 :: [] := by
  decide
theorem test_witness_ReservedEncodingsAreRefused_polarity :
    2 ≤ (0x02 : Byte).toNat ∧ 2 ≤ (0xFF : Byte).toNat ∧
    ({ ready with port := [0x00, 0x02] } : State).port = 0x00 :: 0x02 :: [] := by decide
theorem test_witness_ReservedEncodingsAreRefused_nan :
    isNaN 0x7F800001 = true ∧ isNaN 0xFFFFFFFF = true ∧
    ({ ready with port := [0x04, 0x01, 0x00, 0x80, 0x7F, 0x05] } : State).port =
      0x04 :: (bytesOfWord 0x7F800001 ++ 0x05 :: []) := by decide
theorem test_witness_ReservedEncodingsAreRefused_dpp :
    isNaN 0x7F800000 = false ∧ 5 ≤ (0x05 : Byte).toNat ∧
    ({ ready with port := [0x04, 0x00, 0x00, 0x80, 0x7F, 0x05] } : State).port =
      0x04 :: (bytesOfWord 0x7F800000 ++ 0x05 :: []) := by decide
theorem test_witness_StepRunsTheDecodedOperation :
    beforePrint.phase = .idle ∧ Instr.wellFormed (.printi 10) = true ∧ beforePrint.port = encode (.printi 10) ++ [0x02] := by
  decide
theorem test_witness_IncompleteOperationWaits :
    ready.phase = .idle ∧ Instr.wellFormed (.prints [0x41, 0x42]) = true ∧ 3 < (encode (.prints [0x41, 0x42])).length ∧
    ({ ready with port := [0x05, 0x02, 0x41] } : State).port = (encode (.prints [0x41, 0x42])).take 3 := by decide
theorem test_witness_DrivingStepLeavesThePort :
    driving.phase = .drive ∧ ∃ t, step { driving with advances := [0] } = .next t := ⟨rfl, _, rfl⟩
theorem test_witness_AcceptanceRule :
    driving.phase = .drive ∧ ready.phase = .idle ∧ ready.constructed = true ∧ State.reset.phase = .idle ∧
    State.reset.constructed = false ∧ (∀ pol, Instr.getrate ≠ .construct pol) ∧ Instr.getrate.wellFormed = true ∧
    Instr.wellFormed (.construct .anode) = true ∧ Instr.getrate.withinLimits ready.config = true ∧
    Instr.withinLimits State.reset.config (.construct .anode) = true := ⟨rfl, rfl, rfl, rfl, rfl, nofun, rfl, rfl, rfl, rfl⟩
theorem test_witness_ConstructWritesTheControlRegisters :
    State.reset.phase = .idle ∧ State.reset.constructed = false := ⟨rfl, rfl⟩
/-- Also SETRATE, GETRATE, PRINTF's refusals, and every print: the machine is ready. -/
theorem test_witness_SetrateWritesTheRateAlone : ready.phase = .idle ∧ ready.constructed = true ∧
    (0 : Word).toNat < 2 ^ ready.config.wT ∧ (0xFFFFFFFF : Word).toNat < 2 ^ ready.config.wT := by decide
theorem test_witness_GetrateAnswersTheRate : ready.phase = .idle ∧ ready.constructed = true ∧
    ready.config.wT ≤ 32 ∧ MachineInvariant ready := ⟨rfl, rfl, by decide, test_invariant_ready⟩
theorem test_witness_PrintiDrivesTheNumeral : ready.phase = .idle ∧ ready.constructed = true ∧
    0 ≤ integerValue ready.config.xlenI 0 ∧ integerValue ready.config.xlenI 0 ≤ 9999 ∧
    0 ≤ integerValue ready.config.xlenI 9999 ∧ integerValue ready.config.xlenI 9999 ≤ 9999 := by decide
theorem test_witness_PrintiOutOfRangeTakesTheErrorPath : ready.phase = .idle ∧ ready.constructed = true ∧
    integerValue ready.config.xlenI 0xFFFFFFFF < 0 ∧ integerValue ready.config.xlenI 0x80000000 < 0 ∧
    9999 < integerValue ready.config.xlenI 10000 ∧ 9999 < integerValue ready.config.xlenI 0x7FFFFFFF := by decide
/-- The value 0.5 at dpp 4 and -0 at dpp 0: the boundaries of dpp and of the range. -/
theorem test_witness_PrintfDrivesTheScaledNumeral : ready.phase = .idle ∧ ready.constructed = true ∧
    (4 : Byte).toNat ≤ 4 ∧ Scalable 0x3F000000 (4 : Byte).toNat ∧
    scaleRound ready.config.numerics 0x3F000000 (4 : Byte).toNat ≤ 9999 ∧
    (0 : Byte).toNat ≤ 4 ∧ Scalable 0x80000000 (0 : Byte).toNat ∧
    scaleRound ready.config.numerics 0x80000000 (0 : Byte).toNat ≤ 9999 :=
  ⟨rfl, rfl, by decide, scalable_of_no_signal _ _ (by decide) (by decide) (by decide), by decide, by decide,
    scalable_of_no_signal _ _ (by decide) (by decide) (by decide), by decide⟩
/-- The smallest value below 0, the limit at dpp 0 and at dpp 4, and 9999.5, which rounds up to 10000. -/
theorem test_witness_PrintfOutOfRangeTakesTheErrorPath : ready.phase = .idle ∧ ready.constructed = true ∧
    (f32Finite 0x80000001 = true ∧ f32Value 0x80000001 < 0) ∧
    (f32Finite 0x461C4000 = true ∧ (10 : ℚ) ^ (4 - (0 : Byte).toNat) ≤ f32Value 0x461C4000) ∧
    (f32Finite 0x3F800000 = true ∧ (10 : ℚ) ^ (4 - (4 : Byte).toNat) ≤ f32Value 0x3F800000) ∧
    (Scalable 0x461C3E00 (0 : Byte).toNat ∧ 9999 < scaleRound ready.config.numerics 0x461C3E00 (0 : Byte).toNat) := by
  have nonneg : ∀ f : Word, f32Sign f = false → 0 ≤ f32Value f := fun f h => by
    rw [← not_lt, value_neg_iff]; simp [h]
  refine ⟨rfl, rfl, ⟨by decide, (value_neg_iff _).mpr (by decide)⟩, ⟨by decide, ?_⟩, ⟨by decide, ?_⟩,
    scalable_of_no_signal _ _ (by decide) (by decide) (by decide), by decide⟩
  · exact (limit_iff _ _ (by decide) (nonneg _ (by decide))).mp (by decide)
  · exact (limit_iff _ _ (by decide) (nonneg _ (by decide))).mp (by decide)
theorem test_witness_PrintfIsRefusedOnReservedOperandsOnly : ready.phase = .idle ∧ ready.constructed = true ∧
    isNaN 0x7FC00000 = true ∧ isNaN 0x3F800000 = false ∧ 4 < (5 : Byte).toNat := by decide
/-- Four characters with points, and none at all. -/
theorem test_witness_PrintsDrivesTheCharacters : ready.phase = .idle ∧ ready.constructed = true ∧
    (∀ c ∈ ([(0x38, 1), (0x38, 0), (0x4B, 2), (0x20, 1)] : List (Byte × Nat)), c.1 ≠ 0x2E) ∧
    ([(0x38, 1), (0x38, 0), (0x4B, 2), (0x20, 1)] : List (Byte × Nat)).length ≤ 4 ∧
    (∀ c ∈ ([] : List (Byte × Nat)), c.1 ≠ 0x2E) ∧
    (textOf 1 [(0x38, 1), (0x38, 0), (0x4B, 2), (0x20, 1)]).length ≤ ready.config.strMax ∧
    (textOf 0 []).length ≤ ready.config.strMax := by decide
theorem test_witness_PrintsTooLongTakesTheErrorPath : ready.phase = .idle ∧ ready.constructed = true ∧
    4 < ((codes "1.2.3.4.5").filter (· != 0x2E)).length ∧ (codes "1.2.3.4.5").length ≤ ready.config.strMax := by decide
theorem test_witness_LookupIsTheCharacterMap :
    0x30 ≤ (0x30 : Byte).toNat ∧ (0x39 : Byte).toNat ≤ 0x39 ∧ (0x41 : Byte).toNat = 0x41 + 0 ∧
    (0x7A : Byte).toNat = 0x61 + 25 ∧ (0x3A : Byte).toNat = 0x3A ∧ 0x7B ≤ (0x7B : Byte).toNat := by decide
theorem test_witness_LookupFoldsCaseAndMissesIndexEleven :
    0x61 ≤ (0x61 : Byte).toNat ∧ (0x7A : Byte).toNat ≤ 0x7A ∧ lookup 0x57 = 28 := by decide
theorem test_witness_DigitsRecomposeTheInteger : 0 ≤ 9999 ∧ 9999 ≤ 9999 := by decide
theorem test_witness_CountClosedForm : 0 ≤ 9999 ∧ 0 ≤ 4 ∧ 9999 ≤ 9999 ∧ 4 ≤ 4 := by decide
theorem test_witness_FmtIntSpellsTheDecimalNumeral :
    (0 : Int) ≤ 0 ∧ (0 : Int) ≤ 9999 ∧ (9999 : Int) < 10000 ∧ (-1 : Int) < 0 := by decide
theorem test_witness_FixedRangeTestsFollowTheExactValue : isNaN 0x7F800000 = false ∧ 4 ≤ 4 := by decide
theorem test_witness_ExactScalingRoundsHalfUp : 0 ≤ 4 ∧ Scalable 0x461C3E00 0 :=
  ⟨by decide, scalable_of_no_signal _ _ (by decide) (by decide) (by decide)⟩
theorem test_witness_NumericsAgreeAwayFromTies : 0 ≤ 4 ∧ Scalable 0x40E00000 0 ∧
    ∀ k : ℤ, (1 : ℚ) / 2 ^ 10 < |f32Value 0x40E00000 * (10 : ℚ) ^ 0 - ((k : ℚ) + 1 / 2)| := by
  refine ⟨by decide, scalable_seven, ?_⟩
  intro k
  rw [value_seven]
  rcases le_or_gt k 6 with h | h
  · have : (k : ℚ) ≤ 6 := by exact_mod_cast h
    rw [abs_of_pos (by linarith)]; linarith
  · have : (7 : ℚ) ≤ k := by exact_mod_cast h
    rw [abs_of_neg (by linarith)]; linarith
theorem test_witness_FrameSequencesHaveTheirShape : Instr.wellFormed (.printi 10) = true ∧
    printOf defaultConfig (.printi 10) = some (.frames [⟨0, 0, false⟩, ⟨1, 1, false⟩]) ∧
    Instr.wellFormed (.prints []) = true ∧ printOf defaultConfig (.prints []) = some (.frames []) ∧
    (∀ text, Instr.printi 10 ≠ .prints text) := ⟨by decide, by decide, by decide, by decide, nofun⟩
theorem test_witness_EncodeWordBits : 15 < 16 ∧ 0 < 16 := by decide
theorem test_witness_ComplementedMachineStepsAlike : driving.constructed = true := rfl
theorem test_witness_ClockSamplesNeverGoBack : beforePrint.advances = 100 :: [0, 1, 0, 1, 1, 7] := rfl
/-- A clock of 8 bits that wraps in between, as far as the elapsed time may go. -/
theorem test_witness_DeadlineTestSurvivesTheWrap : 250 ≤ 505 ∧ 505 - 250 < 2 ^ 8 := by decide
/-- At the last instant of the window, with `SCAN` at its last frame. -/
theorem test_witness_DriveCommitsTheScannedFrame :
    ∃ s : State, MachineInvariant s ∧ s.phase = .drive ∧ s.ndig ≠ 0 ∧
      ((now s).1 + 2 ^ s.config.wT - s.tStart) % 2 ^ s.config.wT ≤ s.refreshRate ∧
      s.config.glyphRom[s.fg[s.scan.toNat].toNat]? = some 0x60 :=
  ⟨{ driving with advances := [2] }, test_invariant_driving, by decide, by decide, by decide, by decide⟩
theorem test_witness_DriveNeverStops : MachineInvariant driving ∧ driving.phase = .drive := ⟨test_invariant_driving, rfl⟩
theorem test_witness_DriveEndsPastTheWindow : ∃ s : State, s.phase = .drive ∧
    s.refreshRate < ((now s).1 + 2 ^ s.config.wT - s.tStart) % 2 ^ s.config.wT :=
  ⟨{ driving with advances := [3] }, by decide, by decide⟩
theorem test_witness_EmptyDriveCommitsNothing : ∃ s : State, s.phase = .drive ∧ s.ndig = 0 ∧
    ((now s).1 + 2 ^ s.config.wT - s.tStart) % 2 ^ s.config.wT ≤ s.refreshRate :=
  ⟨{ driving with ndig := 0, scan := 0, advances := [2] }, by decide, by decide, by decide⟩
/-- Program P1: four samples in the window, the last at its very end. -/
theorem test_witness_PrintShowsItsFramesForItsWindow :
    beforePrint.phase = .idle ∧ beforePrint.constructed = true ∧ Instr.wellFormed (.printi 10) = true ∧
    beforePrint.port = encode (.printi 10) ++ [0x02] ∧
    printOf beforePrint.config (.printi 10) = some (.frames [⟨0, 0, false⟩, ⟨1, 1, false⟩]) ∧
    beforePrint.advances = 100 :: ([0, 1, 0, 1] ++ 1 :: [7]) ∧
    [0, 1, 0, 1].sum ≤ (windowOf beforePrint.config (.frames [⟨0, 0, false⟩, ⟨1, 1, false⟩]) beforePrint.refreshRate) ∧
    (windowOf beforePrint.config (.frames [⟨0, 0, false⟩, ⟨1, 1, false⟩]) beforePrint.refreshRate) < [0, 1, 0, 1].sum + 1 ∧
    [0, 1, 0, 1].sum + 1 < 2 ^ beforePrint.config.wT ∧ Instr.withinLimits beforePrint.config (.printi 10) = true := by decide
/-- The same on the error path (program P4: samples 41, then 41, then 10042). -/
theorem test_witness_PrintShowsItsFramesForItsWindow_error :
    printOf beforePrint.config (.printi (-1)) = some (.raised .sign) ∧
    [0].sum ≤ (windowOf beforePrint.config (.raised .sign) beforePrint.refreshRate) ∧
    (windowOf beforePrint.config (.raised .sign) beforePrint.refreshRate) < [0].sum + 10001 ∧
    [0].sum + 10001 < 2 ^ beforePrint.config.wT ∧ Instr.withinLimits beforePrint.config (.printi (-1)) = true := by decide
theorem test_witness_LongEnoughWindowShowsEveryFrame :
    beforePrint.phase = .idle ∧ beforePrint.constructed = true ∧ Instr.wellFormed (.printi 10) = true ∧
    beforePrint.port = encode (.printi 10) ++ [0x02] ∧
    printOf beforePrint.config (.printi 10) = some (.frames [⟨0, 0, false⟩, ⟨1, 1, false⟩]) ∧
    beforePrint.advances = 100 :: ([0, 1, 0, 1] ++ 1 :: [7]) ∧ [0, 1, 0, 1].sum ≤ beforePrint.refreshRate ∧
    beforePrint.refreshRate < [0, 1, 0, 1].sum + 1 ∧ [0, 1, 0, 1].sum + 1 < 2 ^ beforePrint.config.wT ∧
    Instr.withinLimits beforePrint.config (.printi 10) = true ∧
    ([⟨0, 0, false⟩, ⟨1, 1, false⟩] : FrameSeq).length ≤ [0, 1, 0, 1].length := by decide
theorem test_witness_AnyNumberOfCommitsIsPossible :
    beforePrint.phase = .idle ∧ beforePrint.constructed = true ∧ Instr.wellFormed (.printi 10) = true ∧
    beforePrint.port = encode (.printi 10) ++ [0x02] ∧
    printOf beforePrint.config (.printi 10) = some (.frames [⟨0, 0, false⟩, ⟨1, 1, false⟩]) ∧
    framesShown (.frames [⟨0, 0, false⟩, ⟨1, 1, false⟩]) ≠ [] ∧
    windowOf beforePrint.config (.frames [⟨0, 0, false⟩, ⟨1, 1, false⟩]) beforePrint.refreshRate + 1 < 2 ^ beforePrint.config.wT ∧
    Instr.withinLimits beforePrint.config (.printi 10) = true := by decide
theorem test_witness_MaximalRateNeverEnds : ∃ s : State, MachineInvariant s ∧ s.phase = .drive ∧ 
    s.refreshRate + 1 = 2 ^ s.config.wT :=
  ⟨_, test_invariant_driving_first [] 0xFFFFFFFF (by decide), rfl, rfl⟩
/-- Program P4's `PRINTI -1`, with GETRATE after it. -/
theorem test_witness_FailedPrintIsVisibleInTheRate :
    ∃ s : State, s.phase = .idle ∧ s.constructed = true ∧ Instr.wellFormed (.printi (-1)) = true ∧
      s.port = encode (.printi (-1)) ++ encode .getrate ++ [] ∧ printOf s.config (.printi (-1)) = some (.raised .sign) ∧
      s.advances = 41 :: ([0] ++ 10001 :: []) ∧ [0].sum ≤ s.config.defaultRefresh ∧
      s.config.defaultRefresh < [0].sum + 10001 ∧ [0].sum + 10001 < 2 ^ s.config.wT ∧ s.config.defaultRefresh = 10000 ∧
      Instr.withinLimits s.config (.printi (-1)) = true :=
  ⟨{ ready with port := [0x03, 0xFF, 0xFF, 0xFF, 0xFF, 0x02], advances := [41, 0, 10001] },
    by decide, by decide, by decide, by decide, by decide, by decide, by decide, by decide, by decide, by decide, by decide⟩
/-- A step of a constructed machine; one that constructs; one that does neither. -/
theorem test_witness_PolarityIsWrittenOnce :
    (∃ t, step ready = .next t ∧ ready.constructed = true) ∧
    (∃ t, step { State.reset with port := [0x00, 0x01] } = .next t ∧ State.reset.constructed = false ∧
      t.constructed = true) ∧
    (∃ t, step State.reset = .next t ∧ t.constructed = false) := ⟨⟨_, rfl, rfl⟩, ⟨_, rfl, rfl, rfl⟩, ⟨_, rfl, rfl⟩⟩
/-- Each of the three writers changes the rate. -/
theorem test_witness_RateHasThreeWriters :
    (∃ t, step { State.reset with port := [0x00, 0x00] } = .next t ∧ t.refreshRate ≠ 0) ∧
    (∃ t, step { ready with port := [0x01, 0x05, 0x00, 0x00, 0x00] } = .next t ∧ t.refreshRate ≠ 250) ∧
    (∃ t, step { ready with port := [0x03, 0x10, 0x27, 0x00, 0x00] } = .next t ∧ t.refreshRate ≠ 250) :=
  ⟨⟨_, rfl, by decide⟩, ⟨_, rfl, by decide⟩, ⟨_, rfl, by decide⟩⟩
theorem test_witness_TxlogGrowsOneWordAtATime : ∃ t, step { driving with advances := [0] } = .next t ∧ t.txlog = [0x60DF] :=
  ⟨_, rfl, by decide⟩
theorem test_witness_ParametersNeverChange : ∃ t, step { driving with advances := [0] } = .next t := ⟨_, rfl⟩
theorem test_witness_HardwareResetAbandonsTheDrive :
    Instr.getrate.wellFormed = true ∧ driving.port = encode .getrate ++ [] ∧ (∀ pol, Instr.getrate ≠ .construct pol) ∧
    MachineInvariant driving := ⟨rfl, rfl, nofun, test_invariant_driving⟩
theorem test_witness_IntegerOperandIsTwosComplement : 0 < 1 ∧ 32 ≤ 32 := by decide
/-- The width of the spec, at which nothing is cut. -/
theorem test_witness_SetrateTakesTheWidthOfTheRate : ready.phase = .idle ∧ ready.constructed = true ∧
    32 ≤ ready.config.wT := by decide
/-- A limit of 2 characters, at it and past it, and the spec's limit. -/
theorem test_witness_PrintsIsRefusedAboveStrMaxOnly : ready.phase = .idle ∧ ready.constructed = true ∧
    ({ defaultConfig with strMax := 2 } : Config).strMax < (codes "123").length ∧ ready.config.strMax = 255 ∧
    (Instr.prints (codes "123")).wellFormed = true := by decide

end Sys2Proof.Tests
end

section
/-! PROOF. The Glyph Table: LOOKUP (R120) and the space CHARMAP (R85), each read range by range (digits, letters,
other codes), and their agreement. -/

namespace Sys2Proof.Machine

/-- The codes CHARMAP gives a blank for being neither a digit nor a letter (the last row of R85's table). -/
def OffAlphabet (n : Nat) : Prop :=
  n < 0x30 ∨ (0x3A ≤ n ∧ n ≤ 0x40) ∨ (0x5B ≤ n ∧ n ≤ 0x60) ∨ 0x7B ≤ n

/-- The three kinds of code that R85's table tells apart. -/
theorem digit_or_letter_or_offAlphabet (n : Nat) :
    (0x30 ≤ n ∧ n ≤ 0x39) ∨ (∃ k < 26, n = 0x41 + k ∨ n = 0x61 + k) ∨ OffAlphabet n := by
  unfold OffAlphabet
  by_cases hUpper : 0x41 ≤ n ∧ n ≤ 0x5A
  · exact .inr (.inl ⟨n - 0x41, by omega, by omega⟩)
  by_cases hLower : 0x61 ≤ n ∧ n ≤ 0x7A
  · exact .inr (.inl ⟨n - 0x61, by omega, by omega⟩)
  omega

/-! What CHARMAP holds. -/

theorem letterEntries_length : letterEntries.length = 26 := rfl

theorem charmap_length : charmap.length = 256 := by
  simp only [charmap, List.length_append, List.length_replicate, List.length_cons, List.length_nil, letterEntries_length]

theorem charmap_digit (n : Nat) (hlo : 0x30 ≤ n) (hhi : n ≤ 0x39) :
    charmap[n]? = some (BitVec.ofNat 5 (n - 0x30)) := by
  obtain ⟨d, rfl⟩ := Nat.exists_eq_add_of_le hlo
  have table : ∀ d < 10, charmap[0x30 + d]? = some (BitVec.ofNat 5 (0x30 + d - 0x30)) := by decide
  exact table d (by omega)

theorem charmap_letter (n k : Nat) (hk : k < 26) (h : n = 0x41 + k ∨ n = 0x61 + k) :
    charmap[n]? = letterEntries[k]? := by
  have table : ∀ k < 26, charmap[0x41 + k]? = letterEntries[k]? ∧ charmap[0x61 + k]? = letterEntries[k]? := by decide
  obtain ⟨upper, lower⟩ := table k hk
  rcases h with rfl | rfl
  · exact upper
  · exact lower

theorem charmap_offAlphabet (n : Nat) (hn : n < 256) (h : OffAlphabet n) : charmap[n]? = some 27 := by
  unfold OffAlphabet at h
  simp only [charmap, List.getElem?_append, List.length_append, List.length_replicate, List.length_cons,
    List.length_nil, letterEntries_length]
  rcases h with h | h | h | h <;>
    simp (disch := omega) only [if_pos, if_neg, List.getElem?_replicate_of_lt]

/-! What LOOKUP answers. -/

theorem lookup_digit (c : Byte) (hlo : 0x30 ≤ c.toNat) (hhi : c.toNat ≤ 0x39) :
    lookup c = BitVec.ofNat 5 (c.toNat - 0x30) :=
  if_pos ⟨hlo, hhi⟩

/-- The fold of R120: a letter of either case is looked up as the upper-case one. -/
theorem lookup_letter (c : Byte) (k : Nat) (hk : k < 26) (h : c.toNat = 0x41 + k ∨ c.toNat = 0x61 + k) :
    lookup c = lookupUpper (0x41 + k) := by
  rw [lookup, if_neg (by omega)]
  rcases h with h | h
  · rw [if_neg (by omega), h]
  · rw [if_pos (by omega), h]
    congr 1
    omega

theorem letterEntries_eq_lookupUpper (k : Nat) (hk : k < 26) : letterEntries[k]? = some (lookupUpper (0x41 + k)) := by
  revert k
  decide

theorem lookupUpper_of_not_letter (u : Nat) (h : u < 0x41 ∨ 0x5A < u) : lookupUpper u = 27 := by
  unfold lookupUpper
  split
  case h_25 => rfl
  all_goals omega

theorem lookup_offAlphabet (c : Byte) (h : OffAlphabet c.toNat) : lookup c = 27 := by
  unfold OffAlphabet at h
  rw [lookup, if_neg (by omega), if_neg (by omega)]
  exact lookupUpper_of_not_letter _ (by omega)

/-- R85, R120: the table and the function agree at every code. -/
theorem charmap_eq_lookup (c : Byte) : charmap[c.toNat]? = some (lookup c) := by
  rcases digit_or_letter_or_offAlphabet c.toNat with ⟨hlo, hhi⟩ | ⟨k, hk, hc⟩ | hOff
  · rw [charmap_digit _ hlo hhi, lookup_digit c hlo hhi]
  · rw [charmap_letter _ k hk hc, lookup_letter c k hk hc, letterEntries_eq_lookupUpper k hk]
  · rw [charmap_offAlphabet _ c.isLt hOff, lookup_offAlphabet c hOff]

/-- Settles O24: CHARMAP and LOOKUP agree range by range (digits, letters, other codes). -/
theorem lookupIsTheCharacterMap : Obligations.LookupIsTheCharacterMap := by
  unfold Obligations.LookupIsTheCharacterMap
  refine ⟨charmap_length, fun c => ⟨charmap_eq_lookup c, fun hlo hhi => ?digit,
    fun k hk hc => ?letter, lookup_offAlphabet c⟩⟩
  case digit =>
    rw [lookup_digit c hlo hhi, BitVec.toNat_ofNat]
    omega
  case letter =>
    rw [lookup_letter c k hk hc]
    exact letterEntries_eq_lookupUpper k hk

end Sys2Proof.Machine
end

section
/-! PROOF. The Glyph Table: BITREV (R124) as two lookups in the space REV4 (R53). -/

namespace Sys2Proof.Machine

/-- R53: REV4 has an entry for every nibble. -/
theorem rev4_getElem?_toNat (n : BitVec 4) : rev4[n.toNat]? = some (rev4At n) := by
  have inRange : n.toNat < rev4.length := n.isLt
  rw [rev4At, List.getD_eq_getElem?_getD, List.getElem?_eq_getElem inRange, Option.getD_some]

theorem lowNibble_toNat (b : Byte) : (b.extractLsb' 0 4).toNat = b.toNat % 16 := by
  rw [BitVec.extractLsb'_toNat, Nat.shiftRight_zero]

theorem highNibble_toNat (b : Byte) : (b.extractLsb' 4 4).toNat = b.toNat / 16 := by
  have fits : b.toNat < 256 := b.isLt
  rw [BitVec.extractLsb'_toNat, Nat.shiftRight_eq_div_pow]
  omega

/-- R124: the entry of the low nibble stands above the entry of the high nibble. -/
theorem bitrev_toNat (b : Byte) :
    (bitrev b).toNat = 16 * (rev4At (b.extractLsb' 0 4)).toNat + (rev4At (b.extractLsb' 4 4)).toNat := by
  rw [bitrev, BitVec.toNat_append, ← Nat.shiftLeft_add_eq_or_of_lt (BitVec.isLt _), Nat.shiftLeft_eq, Nat.mul_comm]

/-- Settles O26: the bits by `bitrev_bit`, the two lookups by reading each nibble as an index into REV4. -/
theorem bitrevReversesTheBits : Obligations.BitrevReversesTheBits := by
  unfold Obligations.BitrevReversesTheBits
  refine fun b => ⟨fun i hi => bitrev_bit b ⟨i, hi⟩,
    rev4At (b.extractLsb' 0 4), rev4At (b.extractLsb' 4 4), ?low, ?high, bitrev_toNat b⟩
  case low => rw [← lowNibble_toNat, rev4_getElem?_toNat]
  case high => rw [← highNibble_toNat, rev4_getElem?_toNat]

end Sys2Proof.Machine
end

section
/-! PROOF. The Value Formatter: the digits of an integer (R141) and the numeral that the integer path spells at
dpp 0 (R145). -/

namespace Sys2Proof.Machine

/-- R141: the four digits weigh 1, 10, 100 and 1000. -/
theorem eq_weighted_sum_digit (N : Nat) (hN : N ≤ 9999) :
    N = digit N 0 + 10 * digit N 1 + 100 * digit N 2 + 1000 * digit N 3 := by
  rw [digit_zero, digit_one, digit_two, digit_three]
  omega

/-- Settles O29: each digit by its own lemma, the sum by `eq_weighted_sum_digit`. -/
theorem digitsRecomposeTheInteger : Obligations.DigitsRecomposeTheInteger := by
  unfold Obligations.DigitsRecomposeTheInteger
  exact fun N hN => ⟨digit_zero N, digit_one N, digit_two N, digit_three N, digit_le N, eq_weighted_sum_digit N hN⟩

/-- R142 at dpp 0: as many digits are shown as the numeral has. -/
theorem count_digit_dpp_zero (N : Nat) (hN : N ≤ 9999) : count (digit N) 0 = numeralLength N := by
  have atLeastOne := numeralLength_pos N
  have atMostFour := numeralLength_le N
  rw [count_eq N 0 hN (by omega)]
  omega

/-- A digit is its own code in the Glyph Table. -/
theorem integerFrame_g_toNat (pa : Bool) (N dpp k : Nat) : (integerFrame pa N dpp k).g.toNat = digit N k := by
  have fits := digit_le N k
  rw [integerFrame, BitVec.toNat_ofNat]
  omega

/-- R145: at dpp 0 the glyphs are the numeral, units digit first. -/
theorem integerFrames_glyphs (pa : Bool) (N : Nat) (hN : N ≤ 9999) :
    (integerFrames pa N 0).map (fun fr => fr.g.toNat) = numeralDigits N := by
  rw [integerFrames, count_digit_dpp_zero N hN, numeralDigits_eq N hN, List.map_map]
  exact List.map_congr_left fun k _ => integerFrame_g_toNat pa N 0 k

theorem integerFrames_length (pa : Bool) (N : Nat) (hN : N ≤ 9999) :
    (integerFrames pa N 0).length = (numeralDigits N).length := by
  rw [← integerFrames_glyphs pa N hN, List.length_map]

/-- R145: at dpp 0 the digits stand on the positions from 0 up, one each. -/
theorem integerFrames_positions (pa : Bool) (N : Nat) (hN : N ≤ 9999) :
    (integerFrames pa N 0).map (fun fr => fr.pos.toNat) = List.range (numeralDigits N).length := by
  obtain ⟨-, -, positions, -, -⟩ := integerFrames_shape pa N 0 hN (by omega)
  rw [positions, integerFrames_length pa N hN]

/-- Settles O31: in range FMTINT answers the frames of the integer, whose glyphs and positions are the numeral's;
outside it the range tests raise the signals. -/
theorem fmtIntSpellsTheDecimalNumeral : Obligations.FmtIntSpellsTheDecimalNumeral := by
  unfold Obligations.FmtIntSpellsTheDecimalNumeral
  refine fun cfg v => ⟨fun hlo hhi => ?inRange, fmtInt_over cfg v 0, fmtInt_neg cfg v 0⟩
  case inRange =>
    have hN : v.toNat ≤ 9999 := by omega
    exact ⟨_, fmtInt_ok cfg v 0 hlo hhi, integerFrames_glyphs _ _ hN, integerFrames_positions _ _ hN⟩

end Sys2Proof.Machine
end

section
/-! PROOF. The system operation SETRATE (R212): what an accepted one writes. -/

namespace Sys2Proof.Machine

/-- R212, for every operand: an accepted SETRATE writes the rate, cut to its register's width, and nothing else. -/
theorem exec_setrate (ms : Word) (s : State) (hIdle : s.phase = .idle) (hConstructed : s.constructed = true) :
    exec (.setrate ms) s = .next { s with refreshRate := toWidth s.config.wT ms.toNat } := by
  rw [exec, execSetrate, whenReady_accepts s _ hIdle hConstructed]

/-- Settles O14: the next state is that of `exec_setrate`, and an operand of `W_T` bits is not cut. -/
theorem setrateWritesTheRateAlone : Obligations.SetrateWritesTheRateAlone := by
  unfold Obligations.SetrateWritesTheRateAlone
  refine fun ms s hIdle hConstructed => ⟨⟨_, exec_setrate ms s hIdle hConstructed⟩, fun fits => ?write⟩
  case write => rw [exec_setrate ms s hIdle hConstructed, toWidth_of_lt fits]

end Sys2Proof.Machine
end

section
/-! PROOF. The entry of the error path (R235): what it writes and what it leaves alone. -/

namespace Sys2Proof.Machine

/-- Settles O23: `errPath_begins` gives the whole next state for either signal, and the error text's frames are
those of "OVF " and of "NEG ". -/
theorem errorPathSavesNothing : Obligations.ErrorPathSavesNothing := by
  unfold Obligations.ErrorPathSavesNothing
  refine fun s => ⟨?overflow, ?sign⟩
  case overflow =>
    rw [← errorFrames_overflow]
    exact errPath_begins .overflow s
  case sign =>
    rw [← errorFrames_sign]
    exact errPath_begins .sign s

end Sys2Proof.Machine
end

section
/-! PROOF. The invariant of the machine (R23, R25, R28, R29, R66, R172): it holds after reset and every step keeps it.
A state in IDLE owes only the clauses on the record and on the times; a state in DRIVE comes from a print or from an
iteration of the loop. -/

namespace Sys2Proof.Machine

/-- Outside a drive the invariant speaks of the record of commits and of the times alone. -/
theorem invariant_of_idle {s : State} (hIdle : s.phase = .idle) (hLatch : ∀ w ∈ s.txlog.getLast?, w = s.latch)
    (hSelects : ∀ w ∈ s.txlog, SelectsOneDigit w) (hTimes : TimesFit s) : MachineInvariant s := by
  have notDriving : s.phase ≠ .drive := by rw [hIdle]; decide
  exact ⟨fun h => absurd h notDriving, fun h => absurd h notDriving, fun h => absurd h notDriving,
    hLatch, hSelects, hTimes⟩

/-- No clause of the invariant speaks of the clock's own fields. -/
theorem tick_keeps_invariant {s : State} (hI : MachineInvariant s) : MachineInvariant (tick s) := hI

/-- No clause of the invariant speaks of the command port. -/
theorem takeOperation_keeps_invariant (rest : List Byte) {s : State} (hI : MachineInvariant s) :
    MachineInvariant (takeOperation rest s) := hI

theorem endDrive_keeps_invariant {s : State} (hI : MachineInvariant s) : MachineInvariant (endDrive s) := by
  obtain ⟨-, -, -, hLatch, hSelects, hTimes⟩ := hI
  exact invariant_of_idle rfl hLatch hSelects hTimes

/-- R28: with at most four frames SCAN advances modulo NDIG, nothing being cut by its two bits. -/
theorem nextScan_toNat {s : State} (hn : s.ndig ≠ 0) (atMostFour : s.ndig.toNat ≤ 4) :
    (nextScan s).toNat = (s.scan.toNat + 1) % s.ndig.toNat := by
  have below := Nat.mod_lt (s.scan.toNat + 1) (Nat.pos_of_ne_zero (ndig_pos hn))
  rw [nextScan, BitVec.toNat_ofNat, Nat.mod_eq_of_lt (by omega)]

/-- A commit keeps the record: the word is the last one, is in LATCH, and selects one digit as every encoded word does. -/
theorem commitFrame_keeps_invariant {s : State} {w : Word16} (hI : MachineInvariant s) (hDrive : s.phase = .drive)
    (hn : s.ndig ≠ 0) (hw : frameWord s.config.glyphRom s.polarity (s.frame s.scan) = some w) :
    MachineInvariant (commitFrame w s) := by
  obtain ⟨hBuilt, hLegal, -, -, hSelects, hTimes⟩ := hI
  refine ⟨hBuilt, hLegal, fun _ => ?scan, ?latch, ?selects, hTimes⟩
  case scan =>
    obtain ⟨atMostFour, -, -⟩ := hLegal hDrive
    rw [commitFrame_ndig, if_neg hn, commitFrame_scan, nextScan_toNat hn atMostFour]
    exact Nat.mod_lt _ (Nat.pos_of_ne_zero (ndig_pos hn))
  case latch => simp
  case selects =>
    intro v hv
    rw [commitFrame_txlog, List.mem_append, List.mem_singleton] at hv
    rcases hv with hOld | rfl
    · exact hSelects v hOld
    · obtain ⟨p, -, rfl⟩ := frameWord_some hw
      exact selects p _ _ _

/-- R187: an iteration of the loop keeps the invariant. -/
theorem driveIteration_keeps_invariant {c : Nat} {s t : State} (hI : MachineInvariant s) (hDrive : s.phase = .drive)
    (h : driveIteration c s = .next t) : MachineInvariant t := by
  rcases driveIteration_cases h with ⟨-, rfl⟩ | ⟨-, -, rfl⟩ | ⟨-, hn, w, hw, rfl⟩
  · exact endDrive_keeps_invariant hI
  · exact hI
  · exact commitFrame_keeps_invariant hI hDrive hn hw

/-- An operation keeps the invariant: a print loads a legal sequence, and the rate takes a number of its width. -/
theorem exec_keeps_invariant {i : Instr} {s t : State} (hI : MachineInvariant s) (h : exec i s = .next t) :
    MachineInvariant t := by
  obtain ⟨hIdle, hCases⟩ := exec_cases h
  obtain ⟨-, -, -, hLatch, hSelects, hTimes⟩ := id hI
  obtain ⟨hRate, hStart, hDefault⟩ := id hTimes
  rcases hCases with ⟨pol, -, -, rfl⟩ | ⟨ms, -, -, rfl⟩ | ⟨-, -, rfl⟩ | ⟨r, hr, hBuilt, hOperands, -, rfl⟩
  · exact invariant_of_idle hIdle hLatch hSelects ⟨hDefault, hStart, hDefault⟩
  · exact invariant_of_idle hIdle hLatch hSelects ⟨toWidth_lt _ _, hStart, hDefault⟩
  · exact invariant_of_idle hIdle hLatch hSelects hTimes
  · exact inv_of_begun hI hBuilt (shown_legal _ _ _ hr hOperands) (windowOf_lt hTimes r) (showFormatted_begins r s)

/-- Settles O3: the three kinds of step each keep the invariant. -/
theorem stepKeepsInvariant : Obligations.StepKeepsInvariant := by
  unfold Obligations.StepKeepsInvariant
  intro s t hI h
  rcases step_cases h with ⟨hDrive, hIter⟩ | ⟨-, -, rfl⟩ | ⟨-, i, rest, -, hExec⟩
  · exact driveIteration_keeps_invariant (tick_keeps_invariant hI) hDrive hIter
  · exact hI
  · exact exec_keeps_invariant (takeOperation_keeps_invariant rest hI) hExec

/-- Settles O2: after reset the machine is in IDLE, its record is empty and its times are below 2^32. -/
theorem invariantHoldsAtReset : Obligations.InvariantHoldsAtReset := by
  unfold Obligations.InvariantHoldsAtReset
  exact invariant_of_idle rfl nofun nofun (by decide)

end Sys2Proof.Machine
end

section
/-! PROOF. The command port (R96 to R106): decoding an encoded operation, encoding a decoded one, and what too few
bytes decode to, opcode by opcode. -/

namespace Sys2Proof.Machine

/-! The dispatch of the decoder on the opcode byte. -/

@[simp] theorem decode_construct (args : List Byte) : decode (0x00 :: args) = decodeConstruct args := rfl
@[simp] theorem decode_setrate (args : List Byte) : decode (0x01 :: args) = decodeSetrate args := rfl
@[simp] theorem decode_getrate (args : List Byte) : decode (0x02 :: args) = .operation .getrate args := rfl
@[simp] theorem decode_printi (args : List Byte) : decode (0x03 :: args) = decodePrinti args := rfl
@[simp] theorem decode_printf (args : List Byte) : decode (0x04 :: args) = decodePrintf args := rfl
@[simp] theorem decode_prints (args : List Byte) : decode (0x05 :: args) = decodePrints args := rfl

theorem printf_wellFormed_iff (f : Word) (dpp : Byte) :
    (Instr.printf f dpp).wellFormed = true ↔ isNaN f = false ∧ dpp.toNat ≤ 4 := by
  simp [Instr.wellFormed]

theorem prints_wellFormed_iff (text : List Byte) : (Instr.prints text).wellFormed = true ↔ text.length ≤ 255 := by
  simp [Instr.wellFormed]

/-- Settles O4: operation by operation, each by its own decoding lemma. -/
theorem decodeOfEncodeIsTheOperation : Obligations.DecodeOfEncodeIsTheOperation := by
  unfold Obligations.DecodeOfEncodeIsTheOperation
  intro i rest hWell
  cases i with
  | construct pol => cases pol <;> rfl
  | setrate ms => exact decodeSetrate_bytes ms rest
  | getrate => rfl
  | printi v => exact decodePrinti_bytes v rest
  | printf f dpp =>
    obtain ⟨notNaN, hDpp⟩ := (printf_wellFormed_iff f dpp).mp hWell
    have hBytes := decodePrintf_bytes f dpp rest
    rw [if_neg (by simp [notNaN]), if_neg (by omega)] at hBytes
    rw [← hBytes, encode, List.cons_append, List.append_assoc, decode_printf, List.singleton_append]
  | prints text => exact decodePrints_bytes text rest ((prints_wellFormed_iff text).mp hWell)

/-! What each operand decoder can have read. -/

theorem decodeConstruct_spells {args rest : List Byte} {i : Instr} (h : decodeConstruct args = .operation i rest) :
    i.wellFormed = true ∧ 0x00 :: args = encode i ++ rest := by
  cases args with
  | nil => cases h
  | cons pp tail =>
    rw [decodeConstruct] at h
    split at h
    · rename_i hpp; cases h; subst hpp; exact ⟨rfl, rfl⟩
    · split at h
      · rename_i hpp; cases h; subst hpp; exact ⟨rfl, rfl⟩
      · cases h

theorem decodeSetrate_spells {args rest : List Byte} {i : Instr} (h : decodeSetrate args = .operation i rest) :
    i.wellFormed = true ∧ 0x01 :: args = encode i ++ rest := by
  unfold decodeSetrate at h
  split at h
  · cases h; rw [encode, bytesOfWord_wordOfBytes]; exact ⟨rfl, rfl⟩
  · cases h

theorem decodePrinti_spells {args rest : List Byte} {i : Instr} (h : decodePrinti args = .operation i rest) :
    i.wellFormed = true ∧ 0x03 :: args = encode i ++ rest := by
  unfold decodePrinti at h
  split at h
  · cases h; rw [encode, bytesOfWord_wordOfBytes]; exact ⟨rfl, rfl⟩
  · cases h

theorem decodePrintf_spells {args rest : List Byte} {i : Instr} (h : decodePrintf args = .operation i rest) :
    i.wellFormed = true ∧ 0x04 :: args = encode i ++ rest := by
  unfold decodePrintf at h
  split at h
  · split at h
    · cases h
    · split at h
      · cases h
      · rename_i notNaN hDpp
        cases h
        rw [encode, bytesOfWord_wordOfBytes, printf_wellFormed_iff]
        exact ⟨⟨by simpa using notNaN, by omega⟩, rfl⟩
  · cases h

/-- A text has one spelling: its length byte counts the characters taken, which are there. -/
theorem decodePrints_spells {args rest : List Byte} {i : Instr} (h : decodePrints args = .operation i rest) :
    i.wellFormed = true ∧ 0x05 :: args = encode i ++ rest := by
  cases args with
  | nil => cases h
  | cons ll cs =>
    rw [decodePrints] at h
    split at h
    · cases h
    · cases h
      have lengthByte : (cs.take ll.toNat).length = ll.toNat := by rw [List.length_take]; omega
      have byteFits := ll.isLt
      rw [prints_wellFormed_iff, encode, lengthByte, BitVec.ofNat_toNat, BitVec.setWidth_eq]
      exact ⟨by omega, by simp⟩

/-- Settles O5: the opcode byte chooses the operand decoder, and each of them read the one spelling. -/
theorem decodedBytesSpellTheOperation : Obligations.DecodedBytesSpellTheOperation := by
  unfold Obligations.DecodedBytesSpellTheOperation
  intro bytes i rest h
  cases bytes with
  | nil => cases h
  | cons op args =>
    rw [decode] at h
    split at h
    · subst op; exact decodeConstruct_spells h
    · split at h
      · subst op; exact decodeSetrate_spells h
      · split at h
        · subst op; cases h; exact ⟨rfl, rfl⟩
        · split at h
          · subst op; exact decodePrinti_spells h
          · split at h
            · subst op; exact decodePrintf_spells h
            · split at h
              · subst op; exact decodePrints_spells h
              · cases h

/-! Too few operand bytes. -/

theorem decodeSetrate_short {args : List Byte} (h : args.length < 4) : decodeSetrate args = .incomplete := by
  unfold decodeSetrate
  split
  · simp only [List.length_cons] at h; omega
  · rfl

theorem decodePrinti_short {args : List Byte} (h : args.length < 4) : decodePrinti args = .incomplete := by
  unfold decodePrinti
  split
  · simp only [List.length_cons] at h; omega
  · rfl

theorem decodePrintf_short {args : List Byte} (h : args.length < 5) : decodePrintf args = .incomplete := by
  unfold decodePrintf
  split
  · simp only [List.length_cons] at h; omega
  · rfl

theorem decodePrints_short {ll : Byte} {cs : List Byte} (h : cs.length < ll.toNat) :
    decodePrints (ll :: cs) = .incomplete := if_pos h

/-- Settles O6: of each operation the opcode byte is read and the operand bytes are too few. -/
theorem properPrefixIsIncomplete : Obligations.ProperPrefixIsIncomplete := by
  unfold Obligations.ProperPrefixIsIncomplete
  intro i k hWell hk
  cases k with
  | zero => rfl
  | succ k =>
    cases i with
    | construct pol =>
      obtain rfl : k = 0 := by simp only [encode, List.length_cons, List.length_nil] at hk; omega
      rfl
    | setrate ms =>
      simp only [encode, List.length_cons, bytesOfWord_length] at hk
      rw [encode, List.take_succ_cons, decode_setrate, decodeSetrate_short]
      rw [List.length_take]; omega
    | getrate =>
      simp only [encode, List.length_cons, List.length_nil] at hk
      omega
    | printi v =>
      simp only [encode, List.length_cons, bytesOfWord_length] at hk
      rw [encode, List.take_succ_cons, decode_printi, decodePrinti_short]
      rw [List.length_take]; omega
    | printf f dpp =>
      simp only [encode, List.length_cons, List.length_append, List.length_nil, bytesOfWord_length] at hk
      rw [encode, List.take_succ_cons, decode_printf, decodePrintf_short]
      rw [List.length_take]; omega
    | prints text =>
      have lengthByte := length_byte_toNat text ((prints_wellFormed_iff text).mp hWell)
      simp only [encode, List.length_cons] at hk
      rw [encode, List.take_succ_cons, decode_prints]
      cases k with
      | zero => rfl
      | succ k =>
        rw [List.take_succ_cons, decodePrints_short]
        rw [lengthByte, List.length_take]; omega

/-- Settles O7: six closed byte sequences, decoded. -/
theorem specByteSequencesDecode : Obligations.SpecByteSequencesDecode := by
  unfold Obligations.SpecByteSequencesDecode
  decide

/-! What a step does with the bytes. -/

theorem step_incomplete {s : State} (hIdle : s.phase = .idle) (h : decode s.port = .incomplete) : step s = .next s := by
  simp only [step, hIdle, h, waitForHost]

theorem step_invalid {s : State} {e : DecodeError} (hIdle : s.phase = .idle) (h : decode s.port = .invalid e) :
    step s = .refused (refusalOf e) := by
  simp only [step, hIdle, h, refuseInvalid]

/-- R104: every opcode byte from 6 up is reserved. -/
theorem decode_reservedOpcode {op : Byte} (args : List Byte) (h : 6 ≤ op.toNat) :
    decode (op :: args) = .invalid .reservedOpcode := by
  have differs : ∀ b : Byte, b.toNat < 6 → op ≠ b := by
    rintro b hb rfl
    omega
  rw [decode, if_neg (differs 0x00 (by decide)), if_neg (differs 0x01 (by decide)), if_neg (differs 0x02 (by decide)),
    if_neg (differs 0x03 (by decide)), if_neg (differs 0x04 (by decide)), if_neg (differs 0x05 (by decide))]

/-- R105: every polarity byte from 2 up is reserved. -/
theorem decodeConstruct_reservedPolarity {pp : Byte} (rest : List Byte) (h : 2 ≤ pp.toNat) :
    decodeConstruct (pp :: rest) = .invalid .reservedPolarity := by
  have notAnode : pp ≠ 0x00 := by rintro rfl; exact absurd h (by decide)
  have notCathode : pp ≠ 0x01 := by rintro rfl; exact absurd h (by decide)
  rw [decodeConstruct, if_neg notAnode, if_neg notCathode]

/-- Settles O8: each reserved byte decodes to its own error, which the step refuses by name. -/
theorem reservedEncodingsAreRefused : Obligations.ReservedEncodingsAreRefused := by
  unfold Obligations.ReservedEncodingsAreRefused
  refine fun s rest hIdle => ⟨fun op hOp hPort => ?opcode, fun pp hpp hPort => ?polarity, fun f dd hNaN hPort => ?nan,
    fun f dd notNaN hdd hPort => ?dpp⟩
  case opcode => exact step_invalid hIdle (by rw [hPort, decode_reservedOpcode rest hOp])
  case polarity =>
    exact step_invalid hIdle (by rw [hPort, decode_construct, decodeConstruct_reservedPolarity rest hpp])
  case nan => exact step_invalid hIdle (by rw [hPort, decode_printf, decodePrintf_bytes, if_pos hNaN])
  case dpp =>
    exact step_invalid hIdle
      (by rw [hPort, decode_printf, decodePrintf_bytes, if_neg (by simp [notNaN]), if_pos (by omega)])

/-- Settles O9: the bytes decode to the operation, by O4. -/
theorem stepRunsTheDecodedOperation : Obligations.StepRunsTheDecodedOperation := by
  unfold Obligations.StepRunsTheDecodedOperation
  intro s i rest hIdle hWell hPort
  exact step_operation hIdle (by rw [hPort, decodeOfEncodeIsTheOperation i rest hWell])

/-- Settles O10: the bytes decode to incomplete, by O6. -/
theorem incompleteOperationWaits : Obligations.IncompleteOperationWaits := by
  unfold Obligations.IncompleteOperationWaits
  intro s i k hIdle hWell hk hPort
  exact step_incomplete hIdle (by rw [hPort, properPrefixIsIncomplete i k hWell hk])

end Sys2Proof.Machine
end

section
/-! PROOF. Acceptance (R210) and the system operations (R211 to R213): what an operation answers in each phase and
lifecycle, and where its operand is refused (R94, R105). -/

namespace Sys2Proof.Machine

/-! Acceptance. -/

theorem whenReady_driving {s : State} (meaning : State → Outcome) (hDrive : s.phase = .drive) :
    whenReady s meaning = .refused .driving := by
  simp only [whenReady, hDrive]

theorem whenReady_notConstructed {s : State} (meaning : State → Outcome) (hIdle : s.phase = .idle)
    (hNew : s.constructed = false) : whenReady s meaning = .refused .notConstructed := by
  simp only [whenReady, hIdle, hNew, Bool.false_eq_true, if_false]

/-- Every operation but CONSTRUCT is accepted by `whenReady`. -/
theorem exec_eq_whenReady {i : Instr} (s : State) (h : ∀ pol, i ≠ .construct pol) :
    ∃ meaning, exec i s = whenReady s meaning := by
  cases i with
  | construct pol => exact absurd rfl (h pol)
  | setrate ms => rw [exec, execSetrate]; exact ⟨_, rfl⟩
  | getrate => rw [exec, execGetrate]; exact ⟨_, rfl⟩
  | printi v => rw [exec, execPrinti]; exact ⟨_, rfl⟩
  | printf f dpp => rw [exec, execPrintf]; exact ⟨_, rfl⟩
  | prints text => rw [exec, execPrints]; exact ⟨_, rfl⟩

theorem exec_notConstructed {i : Instr} {s : State} (hIdle : s.phase = .idle) (hNew : s.constructed = false)
    (h : ∀ pol, i ≠ .construct pol) : exec i s = .refused .notConstructed := by
  obtain ⟨meaning, hExec⟩ := exec_eq_whenReady s h
  rw [hExec, whenReady_notConstructed meaning hIdle hNew]

theorem exec_construct {pol : Polarity} {s : State} (hIdle : s.phase = .idle) (hNew : s.constructed = false) :
    exec (.construct pol) s =
      .next { s with polarity := pol, refreshRate := s.config.defaultRefresh, constructed := true } := by
  simp only [exec, execConstruct, hIdle, hNew, Bool.false_eq_true, if_false]

theorem exec_construct_again {pol : Polarity} {s : State} (hIdle : s.phase = .idle) (hBuilt : s.constructed = true) :
    exec (.construct pol) s = .refused .alreadyConstructed := by
  simp only [exec, execConstruct, hIdle, hBuilt, if_true]

theorem exec_driving (i : Instr) {s : State} (hDrive : s.phase = .drive) : exec i s = .refused .driving := by
  by_cases h : ∃ pol, i = .construct pol
  · obtain ⟨pol, rfl⟩ := h
    simp only [exec, execConstruct, hDrive]
  · obtain ⟨meaning, hExec⟩ := exec_eq_whenReady s (not_exists.mp h)
    rw [hExec, whenReady_driving meaning hDrive]

/-! Operands refused by an accepted operation. -/

theorem exec_printf_nan {f : Word} (dpp : Byte) {s : State} (hIdle : s.phase = .idle) (hBuilt : s.constructed = true)
    (hNaN : isNaN f = true) : exec (.printf f dpp) s = .refused .floatIsNaN := by
  rw [exec, execPrintf, whenReady_accepts s _ hIdle hBuilt, if_pos hNaN]

theorem exec_printf_reservedDpp {f : Word} {dpp : Byte} {s : State} (hIdle : s.phase = .idle)
    (hBuilt : s.constructed = true) (notNaN : isNaN f = false) (hDpp : 4 < dpp.toNat) :
    exec (.printf f dpp) s = .refused .reservedDpp := by
  rw [exec, execPrintf, whenReady_accepts s _ hIdle hBuilt, if_neg (by simp [notNaN]), if_pos hDpp]

theorem exec_prints_aboveMax {text : List Byte} {s : State} (hIdle : s.phase = .idle) (hBuilt : s.constructed = true)
    (hLong : s.config.strMax < text.length) : exec (.prints text) s = .refused .textAboveMax := by
  rw [exec, execPrints, whenReady_accepts s _ hIdle hBuilt, if_pos hLong]

theorem prints_withinLimits_iff (cfg : Config) (text : List Byte) :
    (Instr.prints text).withinLimits cfg = true ↔ text.length ≤ cfg.strMax := by
  simp [Instr.withinLimits]

/-! Operations that a ready machine runs. -/

theorem exec_getrate {s : State} (hIdle : s.phase = .idle) (hBuilt : s.constructed = true) :
    exec .getrate s = .next (respond (BitVec.ofNat 32 s.refreshRate) s) := by
  rw [exec, execGetrate, whenReady_accepts s _ hIdle hBuilt]

/-- A print that can be spelled and is within the limits shows its formatter's answer (R214 to R216). -/
theorem exec_print {i : Instr} {r : Formatted} {s : State} (hIdle : s.phase = .idle) (hBuilt : s.constructed = true)
    (hWell : i.wellFormed = true) (hLimits : i.withinLimits s.config = true) (hr : printOf s.config i = some r) :
    exec i s = .next (showFormatted r s) := by
  cases i with
  | construct pol => cases hr
  | setrate ms => cases hr
  | getrate => cases hr
  | printi v =>
    cases hr
    exact execPrinti_eq v s hIdle hBuilt
  | printf f dpp =>
    cases hr
    obtain ⟨notNaN, hDpp⟩ := (printf_wellFormed_iff f dpp).mp hWell
    exact execPrintf_ok f dpp s hIdle hBuilt notNaN hDpp
  | prints text =>
    cases hr
    exact execPrints_eq text s hIdle hBuilt ((prints_withinLimits_iff s.config text).mp hLimits)

/-- A ready machine runs every operation but CONSTRUCT that can be spelled and is within the limits. -/
theorem exec_ready {i : Instr} {s : State} (hIdle : s.phase = .idle) (hBuilt : s.constructed = true)
    (hWell : i.wellFormed = true) (hLimits : i.withinLimits s.config = true) (h : ∀ pol, i ≠ .construct pol) :
    ∃ t, exec i s = .next t := by
  cases i with
  | construct pol => exact absurd rfl (h pol)
  | setrate ms => exact ⟨_, exec_setrate ms s hIdle hBuilt⟩
  | getrate => exact ⟨_, exec_getrate hIdle hBuilt⟩
  | printi v => exact ⟨_, exec_print hIdle hBuilt hWell hLimits rfl⟩
  | printf f dpp => exact ⟨_, exec_print hIdle hBuilt hWell hLimits rfl⟩
  | prints text => exact ⟨_, exec_print hIdle hBuilt hWell hLimits rfl⟩

/-- Settles O12: the refusals case by case; an accepted operation runs, and a refused one answers no state. -/
theorem acceptanceRule : Obligations.AcceptanceRule := by
  unfold Obligations.AcceptanceRule
  refine ⟨fun i s hDrive => exec_driving i hDrive, fun pol s => exec_construct_again,
    fun i s => exec_notConstructed, fun i s hIdle hWell hLimits => ?_⟩
  by_cases hConstruct : ∃ pol, i = .construct pol
  · obtain ⟨pol, rfl⟩ := hConstruct
    cases hBuilt : s.constructed with
    | false => simp [exec_construct hIdle hBuilt]
    | true => simp [exec_construct_again hIdle hBuilt]
  · have other : ∀ pol, i ≠ .construct pol := not_exists.mp hConstruct
    cases hBuilt : s.constructed with
    | false => simp [exec_notConstructed hIdle hBuilt other, hConstruct]
    | true => simp [exec_ready hIdle hBuilt hWell hLimits other, hConstruct]

/-- Settles O1: the reset state is in IDLE and not constructed. -/
theorem resetAwaitsConstruct : Obligations.ResetAwaitsConstruct := by
  unfold Obligations.ResetAwaitsConstruct
  exact ⟨rfl, rfl, rfl, fun pol => ⟨_, exec_construct rfl rfl⟩, fun i => exec_notConstructed rfl rfl⟩

/-- Settles O13: the equation of an accepted CONSTRUCT. -/
theorem constructWritesTheControlRegisters : Obligations.ConstructWritesTheControlRegisters := by
  unfold Obligations.ConstructWritesTheControlRegisters
  exact ⟨rfl, fun pol s => exec_construct⟩

/-- Settles O15: the answer is the four bytes of the rate's low 32 bits, which are all of a rate below 2^32. -/
theorem getrateAnswersTheRate : Obligations.GetrateAnswersTheRate := by
  unfold Obligations.GetrateAnswersTheRate
  intro s hIdle hBuilt
  obtain ⟨b0, b1, b2, b3, hBytes, hWord⟩ := bytesOfWord_eq (BitVec.ofNat 32 s.refreshRate)
  refine ⟨b0, b1, b2, b3, ?answer, ?value, fun hWidth hI => ?fits⟩
  case answer => rw [exec_getrate hIdle hBuilt, respond, hBytes]
  case value => rw [← wordOfBytes_toNat, hWord, BitVec.toNat_ofNat]
  case fits =>
    obtain ⟨-, -, -, -, -, hRate, -, -⟩ := hI
    exact Nat.mod_eq_of_lt (hRate.trans_le (Nat.pow_le_pow_right (by decide) hWidth))

/-- Settles O57: the equation of an accepted SETRATE; the operand is below 2^32. -/
theorem setrateTakesTheWidthOfTheRate : Obligations.SetrateTakesTheWidthOfTheRate := by
  unfold Obligations.SetrateTakesTheWidthOfTheRate
  exact fun ms s hIdle hBuilt => ⟨exec_setrate ms s hIdle hBuilt,
    fun hWidth => Nat.mod_eq_of_lt (ms.isLt.trans_le (Nat.pow_le_pow_right (by decide) hWidth))⟩

/-- Settles O20: a NaN, then a dpp above 4, are refused, and every other operand is shown. -/
theorem printfIsRefusedOnReservedOperandsOnly : Obligations.PrintfIsRefusedOnReservedOperandsOnly := by
  unfold Obligations.PrintfIsRefusedOnReservedOperandsOnly
  intro f dpp s hIdle hBuilt
  refine ⟨⟨?legal, fun ⟨notNaN, hDpp⟩ => ⟨_, execPrintf_ok f dpp s hIdle hBuilt notNaN hDpp⟩⟩,
    exec_printf_nan dpp hIdle hBuilt, exec_printf_reservedDpp hIdle hBuilt⟩
  case legal =>
    rintro ⟨t, h⟩
    obtain ⟨-, ⟨_, hi, -⟩ | ⟨_, hi, -⟩ | ⟨hi, -⟩ | ⟨-, -, -, hOperands, -⟩⟩ := exec_cases h
    · cases hi
    · cases hi
    · cases hi
    · exact hOperands f dpp rfl

/-- Settles O58: a text above the limit is refused, any other is shown, and the length byte counts to 255. -/
theorem printsIsRefusedAboveStrMaxOnly : Obligations.PrintsIsRefusedAboveStrMaxOnly := by
  unfold Obligations.PrintsIsRefusedAboveStrMaxOnly
  intro text s hIdle hBuilt
  refine ⟨⟨?within, fun hShort => ⟨_, execPrints_eq text s hIdle hBuilt hShort⟩⟩,
    exec_prints_aboveMax hIdle hBuilt, fun hMax hWell => ?spelled⟩
  case within =>
    rintro ⟨t, h⟩
    by_contra hLong
    rw [exec_prints_aboveMax hIdle hBuilt (not_le.mp hLong)] at h
    cases h
  case spelled =>
    rw [hMax]
    exact (prints_wellFormed_iff text).mp hWell

end Sys2Proof.Machine
end

section
/-! PROOF. The Glyph Table and the wire: the fold and the image of LOOKUP (R121), BITREV as an involution (R125), and
the one bit order of the two adapter modes (R58). -/

namespace Sys2Proof.Machine

/-- R121 a: the two cases of a letter are looked up alike. -/
theorem lookup_fold (c : Byte) (hlo : 0x61 ≤ c.toNat) (hhi : c.toNat ≤ 0x7A) : lookup c = lookup (c - 0x20) := by
  obtain ⟨k, hk⟩ := Nat.exists_eq_add_of_le hlo
  have upper : (c - 0x20).toNat = 0x41 + k := by bv_omega
  rw [lookup_letter c k (by omega) (.inr hk), lookup_letter (c - 0x20) k (by omega) (.inl upper)]

/-- R121 c: every glyph index but 11 stands in CHARMAP. -/
theorem mem_charmap : ∀ g : GlyphIndex, g.toNat ≤ 28 → g ≠ 11 → g ∈ charmap := by decide

/-- Every entry of CHARMAP is LOOKUP of its code. -/
theorem exists_lookup_of_mem_charmap {g : GlyphIndex} (h : g ∈ charmap) : ∃ c : Byte, lookup c = g := by
  obtain ⟨n, hn⟩ := List.mem_iff_getElem?.mp h
  obtain ⟨inRange, -⟩ := List.getElem?_eq_some_iff.mp hn
  have code : (BitVec.ofNat 8 n).toNat = n := by
    rw [charmap_length] at inRange
    rw [BitVec.toNat_ofNat]
    omega
  have entry := charmap_eq_lookup (BitVec.ofNat 8 n)
  rw [code, hn] at entry
  exact ⟨_, (Option.some.inj entry).symm⟩

/-- Settles O25: the fold by the letters of CHARMAP, the image by its entries. -/
theorem lookupFoldsCaseAndMissesIndexEleven : Obligations.LookupFoldsCaseAndMissesIndexEleven := by
  unfold Obligations.LookupFoldsCaseAndMissesIndexEleven
  refine ⟨lookup_fold, fun g => ⟨?image, fun ⟨hg, notEleven⟩ => ?reached⟩⟩
  case image =>
    rintro ⟨c, rfl⟩
    exact lookup_ok c
  case reached => exact exists_lookup_of_mem_charmap (mem_charmap g hg notEleven)

/-- R124, bit by bit at a variable index. -/
theorem bitrev_getLsbD (b : Byte) {i : Nat} (hi : i < 8) : (bitrev b).getLsbD i = b.getLsbD (7 - i) :=
  bitrev_bit b ⟨i, hi⟩

/-- Settles O27: bit 7 - (7 - i) is bit i, and NOT acts on each bit alone. -/
theorem bitrevIsAnInvolution : Obligations.BitrevIsAnInvolution := by
  unfold Obligations.BitrevIsAnInvolution
  refine fun b => ⟨BitVec.eq_of_getLsbD_eq fun i hi => ?twice, BitVec.eq_of_getLsbD_eq fun i hi => ?complement⟩
  case twice =>
    rw [bitrev_getLsbD _ hi, bitrev_getLsbD _ (by omega), show 7 - (7 - i) = i by omega]
  case complement =>
    rw [bitrev_getLsbD _ hi, BitVec.getLsbD_not, BitVec.getLsbD_not, bitrev_getLsbD _ hi]
    simp [hi, show 7 - i < 8 by omega]

/-- R126: a byte reversed and then sent with its highest bit first leaves with bit 0 first. -/
theorem byteMsbFirst_bitrev (b : Byte) : byteMsbFirst (bitrev b) = (List.range 8).map b.getLsbD := by
  refine List.map_congr_left fun i hi => ?_
  have inByte := List.mem_range.mp hi
  rw [bitrev_getLsbD _ (by omega), show 7 - (7 - i) = i by omega]

theorem selectByte_getLsbD (w : Word16) {i : Nat} (hi : i < 8) : (selectByte w).getLsbD i = w.getLsbD i := by
  simp [selectByte, hi]

theorem segmentByte_getLsbD (w : Word16) {i : Nat} (hi : i < 8) : (segmentByte w).getLsbD i = w.getLsbD (8 + i) := by
  simp [segmentByte, hi]

/-- R58: manual reversal sends the same bits in the same order as the native mode. -/
theorem wireBits_eq (mode : AdapterMode) (w : Word16) : wireBits mode w = (List.range 16).map w.getLsbD := by
  cases mode with
  | nativeLsbFirst => rfl
  | msbFirstManualReversal =>
    have low : (List.range 8).map (selectByte w).getLsbD = (List.range 8).map w.getLsbD :=
      List.map_congr_left fun i hi => selectByte_getLsbD w (List.mem_range.mp hi)
    have high : (List.range 8).map (segmentByte w).getLsbD = ((List.range 8).map (8 + ·)).map w.getLsbD := by
      rw [List.map_map]
      exact List.map_congr_left fun i hi => segmentByte_getLsbD w (List.mem_range.mp hi)
    rw [wireBits, reversedBytes, List.flatMap_cons, List.flatMap_cons, List.flatMap_nil, List.append_nil,
      byteMsbFirst_bitrev, byteMsbFirst_bitrev, low, high, ← List.map_append, ← List.range_add]

/-- Settles O28: both modes send the bits of `wireBits_eq`. -/
theorem adapterModesAgreeOnTheWire : Obligations.AdapterModesAgreeOnTheWire := by
  unfold Obligations.AdapterModesAgreeOnTheWire
  intro mode w
  rw [wireBits_eq]
  refine ⟨by rw [List.length_map, List.length_range], fun i hi => ?_⟩
  rw [List.getElem?_map, List.getElem?_range hi, Option.map_some]

end Sys2Proof.Machine
end

section
/-! PROOF. The Frame Encoder under the two polarities (R170 to R175), and the machine with the other polarity (R176):
it decodes, accepts, times and scans alike, and commits the complement of each word. -/

namespace Sys2Proof.Machine

theorem encodeWord_anode (p : Byte) (pos : Position) (dp : Bool) :
    encodeWord p pos dp .anode = highByte p dp ++ ~~~(lowByte pos) := rfl

theorem encodeWord_cathode (p : Byte) (pos : Position) (dp : Bool) :
    encodeWord p pos dp .cathode = ~~~(highByte p dp) ++ lowByte pos := rfl

/-- Settles O36: the segment byte stands above the select byte, and polarity inverts one of the two. -/
theorem encodeWordBits : Obligations.EncodeWordBits := by
  unfold Obligations.EncodeWordBits
  intro p pos dp pol i hi
  by_cases hLow : i < 8
  · have mask : (lowByte pos).getLsbD i = (i == 4 + pos.toNat) := lowByte_bit pos ⟨i, hLow⟩
    rw [if_neg (by omega)]
    cases pol with
    | anode => rw [encodeWord_anode, BitVec.getLsbD_append, if_pos hLow, BitVec.getLsbD_not, mask]; simp [hLow]
    | cathode => rw [encodeWord_cathode, BitVec.getLsbD_append, if_pos hLow, mask]; simp
  · have segments : (highByte p dp).getLsbD (i - 8) = (p.getLsbD (i - 8) || (i == 8 && dp)) := by
      rw [highByte_bit, show (i - 8 == 0) = (i == 8) by rw [Bool.eq_iff_iff]; simp; omega]
    have inByte : i - 8 < 8 := by omega
    rw [if_pos (by omega)]
    cases pol with
    | anode => rw [encodeWord_anode, BitVec.getLsbD_append, if_neg hLow, segments]; simp
    | cathode =>
      rw [encodeWord_cathode, BitVec.getLsbD_append, if_neg hLow, BitVec.getLsbD_not, segments]
      simp [inByte]

/-- Settles O37: NOT passes to both halves, and the half inverted under one polarity is the other's plain half. -/
theorem anodeWordIsTheComplementOfTheCathodeWord : Obligations.AnodeWordIsTheComplementOfTheCathodeWord := by
  unfold Obligations.AnodeWordIsTheComplementOfTheCathodeWord
  intro p pos dp
  have halves : ~~~(~~~(highByte p dp) ++ lowByte pos) = highByte p dp ++ ~~~(lowByte pos) := by
    rw [BitVec.not_append, BitVec.not_not]
  exact halves.symm

theorem encodeWord_otherPolarity (p : Byte) (pos : Position) (dp : Bool) (pol : Polarity) :
    encodeWord p pos dp (otherPolarity pol) = ~~~(encodeWord p pos dp pol) := by
  cases pol with
  | anode =>
    show encodeWord p pos dp .cathode = _
    rw [anodeWordIsTheComplementOfTheCathodeWord, BitVec.not_not]
  | cathode => exact anodeWordIsTheComplementOfTheCathodeWord p pos dp

/-- R176: polarity chooses the word of a frame and not whether it has one. -/
theorem frameWord_otherPolarity (rom : Vector Byte 29) (pol : Polarity) (fr : DigitFrame) :
    frameWord rom (otherPolarity pol) fr = (frameWord rom pol fr).map (~~~·) := by
  rw [frameWord, frameWord, Option.map_map]
  exact congrArg (Option.map · (glyph rom fr.g)) (funext fun p => encodeWord_otherPolarity p fr.pos fr.dp pol)

theorem commitFrame_complemented (w : Word16) (s : State) :
    commitFrame (~~~w) s.complemented = (commitFrame w s).complemented := by
  simp [commitFrame, commit, State.complemented, nextScan]

theorem showFormatted_complemented (r : Formatted) (s : State) :
    showFormatted r s.complemented = (showFormatted r s).complemented := by
  cases r <;> rfl

/-- The iteration over an index that names no glyph (U6). -/
theorem iter_noGlyph {c : Nat} {s : State} (h : windowPassed c s = false) (hn : s.ndig ≠ 0)
    (hw : frameWord s.config.glyphRom s.polarity (s.frame s.scan) = none) :
    driveIteration c s = .refused .noSuchGlyph := by
  rw [driveIteration, if_neg (by simp [h]), if_neg hn, hw]

/-- An iteration tests the same deadline and scans the same frame. -/
theorem driveIteration_complemented (c : Nat) (s : State) :
    driveIteration c s.complemented = mapNext State.complemented (driveIteration c s) := by
  have sameTest : windowPassed c s.complemented = windowPassed c s := rfl
  have sameFrame : s.complemented.frame s.complemented.scan = s.frame s.scan := rfl
  have word : frameWord s.complemented.config.glyphRom s.complemented.polarity
      (s.complemented.frame s.complemented.scan) =
        (frameWord s.config.glyphRom s.polarity (s.frame s.scan)).map (~~~·) := by
    rw [sameFrame]
    exact frameWord_otherPolarity _ _ _
  by_cases hw : windowPassed c s = true
  · rw [iter_end (sameTest.trans hw), iter_end hw]
    rfl
  · have inWindow : windowPassed c s = false := by simpa using hw
    by_cases hn : s.ndig = 0
    · rw [iter_empty (sameTest.trans inWindow) hn, iter_empty inWindow hn]
      rfl
    · cases hf : frameWord s.config.glyphRom s.polarity (s.frame s.scan) with
      | some w =>
        rw [hf, Option.map_some] at word
        rw [iter_commit (sameTest.trans inWindow) hn word, iter_commit inWindow hn hf, commitFrame_complemented]
        rfl
      | none =>
        rw [hf, Option.map_none] at word
        rw [iter_noGlyph (sameTest.trans inWindow) hn word, iter_noGlyph inWindow hn hf]
        rfl

/-- R176: an operation of a constructed machine does not look at the polarity. -/
theorem exec_complemented (i : Instr) (s : State) (hBuilt : s.constructed = true) :
    exec i s.complemented = mapNext State.complemented (exec i s) := by
  cases hPhase : s.phase with
  | drive =>
    rw [exec_driving i hPhase, exec_driving i (s := s.complemented) hPhase]
    rfl
  | idle =>
    cases i with
    | construct pol =>
      rw [exec_construct_again hPhase hBuilt, exec_construct_again (s := s.complemented) hPhase hBuilt]
      rfl
    | setrate ms =>
      rw [exec_setrate ms s hPhase hBuilt, exec_setrate ms s.complemented hPhase hBuilt]
      rfl
    | getrate =>
      rw [exec_getrate hPhase hBuilt, exec_getrate (s := s.complemented) hPhase hBuilt]
      rfl
    | printi v =>
      rw [execPrinti_eq v s hPhase hBuilt, execPrinti_eq v s.complemented hPhase hBuilt, showFormatted_complemented]
      rfl
    | printf f dpp =>
      cases hNaN : isNaN f with
      | true =>
        rw [exec_printf_nan dpp hPhase hBuilt hNaN, exec_printf_nan dpp (s := s.complemented) hPhase hBuilt hNaN]
        rfl
      | false =>
        rcases Nat.lt_or_ge 4 dpp.toNat with hReserved | hDpp
        · rw [exec_printf_reservedDpp hPhase hBuilt hNaN hReserved,
            exec_printf_reservedDpp (s := s.complemented) hPhase hBuilt hNaN hReserved]
          rfl
        · rw [execPrintf_ok f dpp s hPhase hBuilt hNaN hDpp,
            execPrintf_ok f dpp s.complemented hPhase hBuilt hNaN hDpp, showFormatted_complemented]
          rfl
    | prints text =>
      rcases Nat.lt_or_ge s.config.strMax text.length with hLong | hShort
      · rw [exec_prints_aboveMax hPhase hBuilt hLong,
          exec_prints_aboveMax (s := s.complemented) hPhase hBuilt hLong]
        rfl
      · rw [execPrints_eq text s hPhase hBuilt hShort, execPrints_eq text s.complemented hPhase hBuilt hShort,
          showFormatted_complemented]
        rfl

/-- Settles O38: the step decodes the same bytes, and both of its kinds commute with the complement. -/
theorem complementedMachineStepsAlike : Obligations.ComplementedMachineStepsAlike := by
  unfold Obligations.ComplementedMachineStepsAlike
  intro s hBuilt
  cases hPhase : s.phase with
  | drive =>
    rw [step_drive hPhase, step_drive (s := s.complemented) hPhase]
    exact driveIteration_complemented (sample s) (tick s)
  | idle =>
    cases hPort : decode s.port with
    | operation i rest =>
      rw [step_operation hPhase hPort, step_operation (s := s.complemented) hPhase hPort]
      exact exec_complemented i (takeOperation rest s) hBuilt
    | incomplete =>
      rw [step_incomplete hPhase hPort, step_incomplete (s := s.complemented) hPhase hPort]
      rfl
    | invalid e =>
      rw [step_invalid hPhase hPort, step_invalid (s := s.complemented) hPhase hPort]
      rfl

end Sys2Proof.Machine
end

section
/-! PROOF. The Value Formatter: COUNT in closed form (R142), the range tests and the scaling of a float (R147, R148,
R151), and the shape of every frame sequence (R158). -/

namespace Sys2Proof.Machine

/-- Settles O30: `count_eq`, with the length of the numeral. -/
theorem countClosedForm : Obligations.CountClosedForm := by
  unfold Obligations.CountClosedForm
  intro N dpp hN hDpp
  rw [count_eq N dpp hN hDpp, numeralDigits_length N hN]

/-- Settles O32: a pattern is below 0, at or above the limit, or scalable, and each of these has its own answer. -/
theorem fixedRangeTestsFollowTheExactValue : Obligations.FixedRangeTestsFollowTheExactValue := by
  unfold Obligations.FixedRangeTestsFollowTheExactValue
  intro f dpp notNaN hDpp
  have sign := fixedSignal_neg f dpp
  have overflow := fixedSignal_over f dpp hDpp
  have silent := fixedSignal_scalable f dpp hDpp
  refine ⟨⟨fun h => ?below, sign⟩, ⟨fun h => ?above, overflow⟩, ⟨fun h => ?inside, silent⟩⟩ <;>
    rcases fixed_cases f dpp notNaN with hBelow | hAbove | hInside
  case below.inl => exact hBelow
  case below.inr.inl => rw [overflow hAbove] at h; cases h
  case below.inr.inr => rw [silent hInside] at h; cases h
  case above.inl => rw [sign hBelow] at h; cases h
  case above.inr.inl => exact hAbove
  case above.inr.inr => rw [silent hInside] at h; cases h
  case inside.inl => rw [sign hBelow] at h; cases h
  case inside.inr.inl => rw [overflow hAbove] at h; cases h
  case inside.inr.inr => exact hInside

theorem f32Unit_pos : 0 < f32Unit := Nat.two_pow_pos 149

/-- Half-up rounding reaches N exactly from N - 1/2 on. -/
theorem le_roundHalfUp_iff (N x : Nat) : N ≤ roundHalfUp x ↔ (2 * N : ℤ) * f32Unit - f32Unit ≤ 2 * x := by
  rw [roundHalfUp, Nat.le_div_iff_mul_le (Nat.mul_pos (by decide) f32Unit_pos)]
  zify
  constructor <;> intro h <;> linarith

/-- Settles O33: the floor is that of `floor_half`, and 10000 is reached from 9999.5 on and never passed. -/
theorem exactScalingRoundsHalfUp : Obligations.ExactScalingRoundsHalfUp := by
  unfold Obligations.ExactScalingRoundsHalfUp
  intro f dpp hDpp hScalable
  have below := scaled_lt f dpp hDpp hScalable
  rw [scaled_eq f dpp hDpp hScalable, scaleRound]
  generalize f32Magnitude f * pow10At dpp = x at below ⊢
  have atMost : roundHalfUp x ≤ 10000 := by
    rw [← Nat.lt_succ_iff, ← not_le, le_roundHalfUp_iff]
    push_cast
    zify at below
    have unit := f32Unit_pos
    omega
  refine ⟨by rw [floor_half x f32Unit f32Unit_pos, roundHalfUp], atMost, ?_⟩
  calc roundHalfUp x = 10000 ↔ 10000 ≤ roundHalfUp x := by omega
    _ ↔ (2 * (10000 : ℕ) : ℤ) * f32Unit - f32Unit ≤ 2 * x := le_roundHalfUp_iff 10000 x
    _ ↔ ((2 * (10000 : ℕ) : ℤ) * f32Unit - f32Unit : ℚ) ≤ 2 * x := by norm_cast
    _ ↔ (9999.5 : ℚ) ≤ x / f32Unit := by
      rw [le_div_iff₀ unit_pos]
      push_cast
      constructor <;> intro h <;> linarith

/-- A quotient by the unit that is farther than 2^-10 from k + 1/2, in units of 2^-149. -/
theorem far_from_half {x : Nat} {k : ℤ} (h : (1 : ℚ) / 2 ^ 10 < |(x : ℚ) / f32Unit - ((k : ℚ) + 1 / 2)|) :
    (2 : ℤ) ^ 140 < |2 * (x : ℤ) - (2 * k + 1) * 2 ^ 149| := by
  have unit : (f32Unit : ℚ) = 2 ^ 149 := by norm_num [f32Unit]
  have scaled : (2 * (x : ℚ) - (2 * k + 1) * 2 ^ 149) = 2 ^ 150 * ((x : ℚ) / f32Unit - (k + 1 / 2)) := by
    rw [unit]; ring
  have : (2 : ℚ) ^ 140 < |2 * (x : ℚ) - (2 * k + 1) * 2 ^ 149| := by
    rw [scaled, abs_mul, abs_of_pos (by positivity)]
    calc (2 : ℚ) ^ 140 = 2 ^ 150 * (1 / 2 ^ 10) := by norm_num
      _ < _ := mul_lt_mul_of_pos_left h (by positivity)
  exact_mod_cast this

/-- R151: the product and the sum below 2^14 are each rounded by at most 2^-11, so their result is off by at most
2^-10. -/
theorem roundBinary32_twice_close {x : Nat} (hx : x < 10000 * 2 ^ 149) :
    2 * roundBinary32 (roundBinary32 x + 2 ^ 148) ≤ 2 * x + 2 ^ 149 + 2 ^ 140 ∧
    2 * x + 2 ^ 149 ≤ 2 * roundBinary32 (roundBinary32 x + 2 ^ 148) + 2 ^ 140 := by
  obtain ⟨productUp, productDown⟩ := roundBinary32_error x (by omega)
  obtain ⟨sumUp, sumDown⟩ := roundBinary32_error (roundBinary32 x + 2 ^ 148) (by omega)
  omega

/-- Settles O34: the doubly rounded value stays between the same two half-integers as the exact one. -/
theorem numericsAgreeAwayFromTies : Obligations.NumericsAgreeAwayFromTies := by
  unfold Obligations.NumericsAgreeAwayFromTies
  intro f dpp hDpp hScalable hFar
  have below := scaled_lt f dpp hDpp hScalable
  rw [scaled_eq f dpp hDpp hScalable] at hFar
  rw [scaleRound, scaleRound]
  generalize f32Magnitude f * pow10At dpp = x at below hFar ⊢
  have close := roundBinary32_twice_close below
  rw [roundPerOperation, roundHalfUp, show f32Unit / 2 = 2 ^ 148 by decide, f32Unit]
  generalize roundBinary32 (roundBinary32 x + 2 ^ 148) = z at close ⊢
  have quotient := Nat.div_add_mod (2 * x + 2 ^ 149) (2 * 2 ^ 149)
  have remainder := Nat.mod_lt (2 * x + 2 ^ 149) (show 0 < 2 * 2 ^ 149 by decide)
  generalize (2 * x + 2 ^ 149) / (2 * 2 ^ 149) = N at quotient ⊢
  have farBelow := lt_abs.mp (far_from_half (hFar ((N : ℤ) - 1)))
  have farAbove := lt_abs.mp (far_from_half (hFar N))
  apply Nat.div_eq_of_lt_le
  · omega
  · omega

end Sys2Proof.Machine
end

section
/-! PROOF. What each print shows: the frames of an integer (R214), of a scaled float (R215) and of a text (R216), the
error text where a signal is raised (R234), and the shape they all have (R158). -/

namespace Sys2Proof.Machine

/-! From the formatter's answer to the drive. -/

theorem begins_frames {r : Formatted} {seq : FrameSeq} (s : State) (h : r = .frames seq) :
    DriveBegun seq s.refreshRate s (showFormatted r s) := by
  subst h
  exact showFormatted_begins _ s

/-- "NEG " at the default rate (R232, R234). -/
theorem begins_sign {r : Formatted} (s : State) (h : r = .raised .sign) :
    DriveBegun [⟨21, 3, false⟩, ⟨14, 2, false⟩, ⟨16, 1, false⟩, ⟨27, 0, false⟩] s.config.defaultRefresh s
      (showFormatted r s) := by
  subst h
  rw [← errorFrames_sign]
  exact showFormatted_begins _ s

/-- "OVF " at the default rate (R231, R234). -/
theorem begins_overflow {r : Formatted} (s : State) (h : r = .raised .overflow) :
    DriveBegun [⟨0, 3, false⟩, ⟨25, 2, false⟩, ⟨15, 1, false⟩, ⟨27, 0, false⟩] s.config.defaultRefresh s
      (showFormatted r s) := by
  subst h
  rw [← errorFrames_overflow]
  exact showFormatted_begins _ s

/-! Integers. -/

/-- R142 to R144: the digits from the units up, the point on position dpp. -/
theorem integerFrames_eq (pa : Bool) (N dpp : Nat) (hN : N ≤ 9999) (hDpp : dpp ≤ 4) :
    integerFrames pa N dpp = (List.range (min 4 (max (dpp + 1) (numeralDigits N).length))).map fun k =>
      { g := BitVec.ofNat 5 (N / 10 ^ k % 10), pos := BitVec.ofNat 2 k, dp := k == dpp && (k != 0 || pa) } := by
  rw [integerFrames, countClosedForm N dpp hN hDpp]
  refine List.map_congr_left fun k hk => ?_
  have onDisplay := List.mem_range.mp hk
  rw [integerFrame, digit, point_eq pa k dpp (by omega)]

/-- R145: at dpp 0 they are the numeral's digits. -/
theorem integerFrames_numeral (pa : Bool) (N : Nat) (hN : N ≤ 9999) :
    integerFrames pa N 0 = (numeralDigits N).mapIdx fun k d =>
      { g := BitVec.ofNat 5 d, pos := BitVec.ofNat 2 k, dp := k == 0 && pa } := by
  have atMostFour := numeralLength_le N
  rw [integerFrames, count_digit_dpp_zero N hN, numeralDigits_eq N hN]
  apply List.ext_getElem
  · simp
  · intro k hk _
    simp only [List.length_map, List.length_range] at hk
    simp only [List.getElem_map, List.getElem_range, List.getElem_mapIdx, integerFrame]
    rw [point_eq pa k 0 (by omega)]
    cases k <;> rfl

/-- Settles O16: in range FMTINT answers the frames of the numeral. -/
theorem printiDrivesTheNumeral : Obligations.PrintiDrivesTheNumeral := by
  unfold Obligations.PrintiDrivesTheNumeral
  intro v s hIdle hBuilt hLow hHigh
  refine ⟨_, execPrinti_eq v s hIdle hBuilt, ?_⟩
  rw [← integerFrames_numeral _ _ (by omega)]
  exact begins_frames s (fmtInt_ok _ _ 0 hLow hHigh)

/-- Settles O17: outside the range FMTINT raises the signal. -/
theorem printiOutOfRangeTakesTheErrorPath : Obligations.PrintiOutOfRangeTakesTheErrorPath := by
  unfold Obligations.PrintiOutOfRangeTakesTheErrorPath
  exact fun v s hIdle hBuilt =>
    ⟨fun hNeg => ⟨_, execPrinti_eq v s hIdle hBuilt, begins_sign s (fmtInt_neg _ _ 0 hNeg)⟩,
      fun hOver => ⟨_, execPrinti_eq v s hIdle hBuilt, begins_overflow s (fmtInt_over _ _ 0 hOver)⟩⟩

/-! Floats. -/

theorem fmtFix_raised {cfg : Config} {f : Word} {dpp : Nat} {sig : Signal} (h : fixedSignal f dpp = some sig) :
    fmtFix cfg f dpp = .raised sig := by
  rw [fmtFix, h]

/-- R146: what passes the range tests is scaled and given to FMTINT. -/
theorem fmtFix_scalable (cfg : Config) {f : Word} {dpp : Nat} (hDpp : dpp ≤ 4) (h : Scalable f dpp) :
    fmtFix cfg f dpp = fmtInt cfg (scaleRound cfg.numerics f dpp) dpp := by
  rw [fmtFix, fixedSignal_scalable f dpp hDpp h]

/-- Settles O18: a scalable operand's N goes to FMTINT, in range. -/
theorem printfDrivesTheScaledNumeral : Obligations.PrintfDrivesTheScaledNumeral := by
  unfold Obligations.PrintfDrivesTheScaledNumeral
  intro f dpp s hIdle hBuilt hDpp hScalable hN
  have notNaN := finite_not_nan f hScalable.1
  refine ⟨_, execPrintf_ok f dpp s hIdle hBuilt notNaN hDpp, ?_⟩
  rw [← integerFrames_eq s.config.pointAtDpp0 _ _ hN hDpp]
  refine begins_frames s ?_
  rw [fmtFix_scalable s.config hDpp hScalable, fmtInt_ok _ _ _ (by omega) (by omega), Int.toNat_natCast]

/-- Settles O19: the range tests raise a signal, or FMTINT does for an N above 9999. -/
theorem printfOutOfRangeTakesTheErrorPath : Obligations.PrintfOutOfRangeTakesTheErrorPath := by
  unfold Obligations.PrintfOutOfRangeTakesTheErrorPath
  intro f dpp s hIdle hBuilt hDpp
  refine ⟨fun hBelow => ⟨_, execPrintf_ok f dpp s hIdle hBuilt ?notNaNBelow hDpp,
      begins_sign s (fmtFix_raised (fixedSignal_neg f _ hBelow))⟩,
    fun hOver => ⟨_, execPrintf_ok f dpp s hIdle hBuilt ?notNaNOver hDpp, begins_overflow s ?overflow⟩⟩
  case notNaNBelow =>
    rcases hBelow with rfl | ⟨hFinite, -⟩
    · decide
    · exact finite_not_nan f hFinite
  case notNaNOver =>
    rcases hOver with rfl | ⟨hFinite, -⟩ | ⟨⟨hFinite, -⟩, -⟩
    · decide
    · exact finite_not_nan f hFinite
    · exact finite_not_nan f hFinite
  case overflow =>
    rcases hOver with hInfinite | hLimit | ⟨hScalable, hN⟩
    · exact fmtFix_raised (fixedSignal_over f _ hDpp (.inl hInfinite))
    · exact fmtFix_raised (fixedSignal_over f _ hDpp (.inr hLimit))
    · rw [fmtFix_scalable s.config hDpp hScalable, fmtInt_over _ _ _ (by omega)]

/-! Texts. -/

/-- R152 to R154: the frames of a text given by its displayed characters. -/
theorem textFrames_textOf (leading : Nat) (shown : List (Byte × Nat)) (h : ∀ c ∈ shown, c.1 ≠ pointChar) :
    textFrames (scanText (textOf leading shown)) = shown.mapIdx fun i c =>
      { g := lookup c.1, pos := BitVec.ofNat 2 (shown.length - 1 - i), dp := c.2 != 0 } := by
  rw [scanText_textOf leading shown h, textFrames, List.length_map]
  apply List.ext_getElem
  · simp
  · intro i _ _
    simp only [List.getElem_mapIdx, List.getElem_map]

/-- Settles O21: FMTSTR displays at most four characters without a signal. -/
theorem printsDrivesTheCharacters : Obligations.PrintsDrivesTheCharacters := by
  unfold Obligations.PrintsDrivesTheCharacters
  intro leading shown s hIdle hBuilt noPoint hFour hMax
  refine ⟨_, execPrints_eq _ s hIdle hBuilt hMax, ?_⟩
  rw [← textFrames_textOf leading shown noPoint]
  refine begins_frames s (fmtStr_ok _ ?_)
  rw [scanText_textOf leading shown noPoint, List.length_map]
  exact hFour

/-- Every text is its leading points and its other characters, each with the points after it (R152, R153). -/
theorem exists_textOf (text : List Byte) : ∃ (leading : Nat) (shown : List (Byte × Nat)),
    text = textOf leading shown ∧ (∀ c ∈ shown, c.1 ≠ pointChar) ∧
      shown.length = (text.filter (· != pointChar)).length := by
  induction text with
  | nil => exact ⟨0, [], rfl, nofun, rfl⟩
  | cons c cs ih =>
    obtain ⟨leading, shown, rfl, noPoint, hCount⟩ := ih
    by_cases hc : c = pointChar
    · subst hc
      exact ⟨leading + 1, shown, rfl, noPoint, by rw [hCount, List.filter_cons_of_neg (by simp)]⟩
    · refine ⟨0, (c, leading) :: shown, rfl, ?_, ?_⟩
      · simp only [List.forall_mem_cons]
        exact ⟨hc, noPoint⟩
      · rw [List.length_cons, hCount, List.filter_cons_of_pos (by simpa using hc), List.length_cons]

/-- Settles O22: FMTSTR counts the characters other than the point, and `exists_textOf`. -/
theorem printsTooLongTakesTheErrorPath : Obligations.PrintsTooLongTakesTheErrorPath := by
  unfold Obligations.PrintsTooLongTakesTheErrorPath
  refine ⟨fun text s hIdle hBuilt hMax hMany =>
    ⟨_, execPrints_eq text s hIdle hBuilt hMax, begins_overflow s (fmtStr_over text ?_)⟩, exists_textOf⟩
  rw [scanText_length]
  exact hMany

/-! The shape of a frame sequence. -/

/-- Both orders in which a legal sequence places its frames are permutations of the positions. -/
theorem Legal.positions_perm {seq : FrameSeq} (h : Legal seq) :
    (seq.map fun fr => fr.pos.toNat).Perm (List.range seq.length) := by
  obtain ⟨-, -, hUp | hDown⟩ := h
  · rw [hUp]
  · have reversed : (List.range seq.length).reverse = (List.range seq.length).map fun i => seq.length - 1 - i := by
      conv_lhs => rw [List.range_eq_range', List.reverse_range', Nat.zero_add]
    rw [hDown, ← reversed]
    exact List.reverse_perm _

/-- On the integer and float paths the frames are those of an integer 0 to 9999. -/
theorem print_integerFrames {cfg : Config} {i : Instr} {seq : FrameSeq} (hWell : i.wellFormed = true)
    (hr : printOf cfg i = some (.frames seq)) (notText : ∀ text, i ≠ .prints text) :
    ∃ N dpp, N ≤ 9999 ∧ dpp ≤ 4 ∧ seq = integerFrames cfg.pointAtDpp0 N dpp := by
  cases i with
  | construct pol => cases hr
  | setrate ms => cases hr
  | getrate => cases hr
  | printi v =>
    obtain ⟨hLow, hHigh, hSeq⟩ := fmtInt_frames cfg _ 0 seq (Option.some.inj hr)
    exact ⟨_, 0, by omega, by omega, hSeq⟩
  | printf f dpp =>
    obtain ⟨-, hDpp⟩ := (printf_wellFormed_iff f dpp).mp hWell
    have hFix : fmtFix cfg f dpp.toNat = .frames seq := Option.some.inj hr
    rw [fmtFix] at hFix
    split at hFix
    · cases hFix
    · obtain ⟨hLow, hHigh, hSeq⟩ := fmtInt_frames cfg _ _ seq hFix
      exact ⟨_, _, by omega, hDpp, hSeq⟩
  | prints text => exact absurd rfl (notText text)

/-- A well-formed PRINTF has the operands that `shown_legal` asks for. -/
theorem printf_operands_legal {i : Instr} (hWell : i.wellFormed = true) :
    ∀ f dpp, i = .printf f dpp → isNaN f = false ∧ dpp.toNat ≤ 4 := by
  rintro f dpp rfl
  exact (printf_wellFormed_iff f dpp).mp hWell

/-- Settles O35: every sequence shown is legal, and those of an integer have the shape of `integerFrames_shape`. -/
theorem frameSequencesHaveTheirShape : Obligations.FrameSequencesHaveTheirShape := by
  unfold Obligations.FrameSequencesHaveTheirShape
  intro cfg i seq hWell hr
  have legal : Legal seq := shown_legal cfg i _ hr (printf_operands_legal hWell)
  obtain ⟨atMostFour, glyphs, -⟩ := id legal
  refine ⟨atMostFour, legal.positions_perm, glyphs, fun notText => ?_⟩
  obtain ⟨N, dpp, hN, hDpp, rfl⟩ := print_integerFrames hWell hr notText
  obtain ⟨-, nonempty, -, digits, onePoint⟩ := integerFrames_shape cfg.pointAtDpp0 N dpp hN hDpp
  exact ⟨nonempty, digits, onePoint⟩

end Sys2Proof.Machine
end

section
/-! PROOF. The Multiplexer (R185 to R192): what no iteration writes, its three kinds with the clock sample spelled out,
and the drive that never ends (R197). -/

namespace Sys2Proof.Machine

/-- Where an answer is given ahead, the next sample comes that much after the last one. -/
theorem nextAdvance_of_advances {s : State} {d : Nat} {later : List Nat} (h : s.advances = d :: later) :
    nextAdvance s = d := by
  rw [nextAdvance, h, List.head?_cons, Option.getD_some]

/-- Settles O39: the sample is the time after the advance, cut to the clock's width. -/
theorem clockSamplesNeverGoBack : Obligations.ClockSamplesNeverGoBack := by
  unfold Obligations.ClockSamplesNeverGoBack
  refine fun s => ⟨Nat.le_add_right _ _, rfl, fun d rest hAdvances => ?_⟩
  exact ⟨by rw [now_snd, tick_trueTime, nextAdvance_of_advances hAdvances],
    by rw [now_snd, tick_advances, hAdvances, List.tail_cons]⟩

/-- Settles O54: below 2^w the elapsed time is the true one. -/
theorem deadlineTestSurvivesTheWrap : Obligations.DeadlineTestSurvivesTheWrap := by
  unfold Obligations.DeadlineTestSurvivesTheWrap
  intro w rate start later hOrder hFits
  rw [deadlinePassed, elapsed_toWidth w start later hOrder hFits, decide_eq_true_iff]

/-- What no iteration of a drive writes. -/
structure DriveKeeps (s t : State) : Prop where
  refreshRate : t.refreshRate = s.refreshRate
  polarity : t.polarity = s.polarity
  constructed : t.constructed = s.constructed
  fg : t.fg = s.fg
  fp : t.fp = s.fp
  fd : t.fd = s.fd
  ndig : t.ndig = s.ndig
  tStart : t.tStart = s.tStart
  port : t.port = s.port
  response : t.response = s.response
  config : t.config = s.config

theorem DriveKeeps.refl (s : State) : DriveKeeps s s := ⟨rfl, rfl, rfl, rfl, rfl, rfl, rfl, rfl, rfl, rfl, rfl⟩

theorem DriveKeeps.trans {s t u : State} (h : DriveKeeps s t) (k : DriveKeeps t u) : DriveKeeps s u where
  refreshRate := k.refreshRate.trans h.refreshRate
  polarity := k.polarity.trans h.polarity
  constructed := k.constructed.trans h.constructed
  fg := k.fg.trans h.fg
  fp := k.fp.trans h.fp
  fd := k.fd.trans h.fd
  ndig := k.ndig.trans h.ndig
  tStart := k.tStart.trans h.tStart
  port := k.port.trans h.port
  response := k.response.trans h.response
  config := k.config.trans h.config

/-- The frame buffer is among it. -/
theorem DriveKeeps.frame {s t : State} (h : DriveKeeps s t) (k : BitVec 2) : t.frame k = s.frame k := by
  simp only [State.frame, h.fg, h.fp, h.fd]

theorem tick_driveKeeps (s : State) : DriveKeeps s (tick s) := ⟨rfl, rfl, rfl, rfl, rfl, rfl, rfl, rfl, rfl, rfl, rfl⟩

theorem endDrive_driveKeeps (s : State) : DriveKeeps s (endDrive s) :=
  ⟨rfl, rfl, rfl, rfl, rfl, rfl, rfl, rfl, rfl, rfl, rfl⟩

theorem commitFrame_driveKeeps (w : Word16) (s : State) : DriveKeeps s (commitFrame w s) :=
  ⟨rfl, rfl, rfl, rfl, rfl, rfl, rfl, rfl, rfl, rfl, rfl⟩

theorem driveIteration_driveKeeps {c : Nat} {s t : State} (h : driveIteration c s = .next t) : DriveKeeps s t := by
  rcases driveIteration_cases h with ⟨-, rfl⟩ | ⟨-, -, rfl⟩ | ⟨-, -, w, -, rfl⟩
  · exact endDrive_driveKeeps s
  · exact DriveKeeps.refl t
  · exact commitFrame_driveKeeps w s

/-- An iteration takes no clock sample of its own. -/
theorem driveIteration_nowCalls {c : Nat} {s t : State} (h : driveIteration c s = .next t) :
    t.nowCalls = s.nowCalls := by
  rcases driveIteration_cases h with ⟨-, rfl⟩ | ⟨-, -, rfl⟩ | ⟨-, -, w, -, rfl⟩ <;> rfl

/-- A step in DRIVE: the sample, then what no iteration writes. -/
theorem step_driveKeeps {s t : State} (hDrive : s.phase = .drive) (h : step s = .next t) : DriveKeeps s t := by
  rw [step_drive hDrive] at h
  exact (tick_driveKeeps s).trans (driveIteration_driveKeeps h)

/-- R96: an iteration does not read the port. -/
theorem driveIteration_port (c : Nat) (s : State) (port : List Byte) :
    driveIteration c { s with port := port } = mapNext (fun t => { t with port := port }) (driveIteration c s) := by
  unfold driveIteration
  by_cases hw : windowPassed c s = true
  · have sameTest : windowPassed c { s with port := port } = true := hw
    rw [if_pos hw, if_pos sameTest]
    rfl
  · have sameTest : ¬ windowPassed c { s with port := port } = true := hw
    rw [if_neg hw, if_neg sameTest]
    by_cases hn : s.ndig = 0
    · rw [if_pos hn, if_pos hn]
      rfl
    · rw [if_neg hn, if_neg hn]
      have sameFrame : ({ s with port := port } : State).frame s.scan = s.frame s.scan := rfl
      rw [sameFrame]
      cases frameWord s.config.glyphRom s.polarity (s.frame s.scan) <;> rfl

/-- Settles O11: the step samples the clock once and iterates, and neither looks at the port. -/
theorem drivingStepLeavesThePort : Obligations.DrivingStepLeavesThePort := by
  unfold Obligations.DrivingStepLeavesThePort
  intro s port hDrive
  have hStep := step_drive hDrive
  refine ⟨hStep, ?otherPort, fun t h => ⟨(step_driveKeeps hDrive h).port, ?oneSample⟩⟩
  case otherPort =>
    rw [hStep, step_drive (s := { s with port := port }) hDrive]
    exact driveIteration_port (sample s) (tick s) port
  case oneSample =>
    rw [hStep] at h
    exact driveIteration_nowCalls h

/-- Settles O42: the iteration past the window. -/
theorem driveEndsPastTheWindow : Obligations.DriveEndsPastTheWindow := by
  unfold Obligations.DriveEndsPastTheWindow
  intro s hDrive hPassed
  rw [step_drive hDrive, iter_end ((passed_iff (sample s) (tick s)).mpr hPassed)]
  rfl

/-- Settles O43: the iteration of an empty drive in the window. -/
theorem emptyDriveCommitsNothing : Obligations.EmptyDriveCommitsNothing := by
  unfold Obligations.EmptyDriveCommitsNothing
  intro s hDrive hEmpty hWindow
  rw [step_drive hDrive, iter_empty ((passed_false (sample s) (tick s)).mpr hWindow) hEmpty]
  rfl

/-- R28: a step of SCAN below NDIG, with the wrap spelled out. -/
theorem succ_mod_of_lt {k n : Nat} (h : k < n) : (k + 1) % n = if k + 1 = n then 0 else k + 1 := by
  split
  · rename_i hWrap
    rw [hWrap, Nat.mod_self]
  · exact Nat.mod_eq_of_lt (by omega)

/-- Settles O40: the iteration in the window commits the word of the frame at SCAN. -/
theorem driveCommitsTheScannedFrame : Obligations.DriveCommitsTheScannedFrame := by
  unfold Obligations.DriveCommitsTheScannedFrame
  intro s p hI hDrive hn hWindow hGlyph
  obtain ⟨-, -, hScan, -⟩ := hI
  have scanBelow : s.scan.toNat < s.ndig.toNat := by simpa only [if_neg hn] using hScan hDrive
  have word : frameWord (tick s).config.glyphRom (tick s).polarity ((tick s).frame (tick s).scan) =
      some (encodeWord p s.fp[s.scan.toNat] s.fd[s.scan.toNat] s.polarity) := congrArg (Option.map _) hGlyph
  rw [step_drive hDrive, iter_commit ((passed_false (sample s) (tick s)).mpr hWindow) hn word, now_snd,
    ← succ_mod_of_lt scanBelow]
  rfl

/-- R23: in a state with the invariant no iteration is refused, whatever the sample. -/
theorem driveIteration_next {s : State} (c : Nat) (hI : MachineInvariant s) (hDrive : s.phase = .drive) :
    ∃ t, driveIteration c s = .next t := by
  obtain ⟨-, hLegal, hScan, -⟩ := hI
  cases hw : windowPassed c s with
  | true => exact ⟨_, iter_end hw⟩
  | false =>
    by_cases hn : s.ndig = 0
    · exact ⟨_, iter_empty hw hn⟩
    · obtain ⟨w, hWord⟩ := scanned_word (hLegal hDrive) (by simpa only [if_neg hn] using hScan hDrive)
      exact ⟨_, iter_commit hw hn hWord⟩

/-- Settles O41: the sample keeps the invariant, and no iteration is refused. -/
theorem driveNeverStops : Obligations.DriveNeverStops := by
  unfold Obligations.DriveNeverStops
  intro s hI hDrive
  rw [step_drive hDrive]
  exact driveIteration_next (sample s) (tick_keeps_invariant hI) hDrive

/-- An iteration in the window stays in DRIVE. -/
theorem driveIteration_phase {c : Nat} {s t : State} (hWindow : windowPassed c s = false)
    (h : driveIteration c s = .next t) : t.phase = s.phase := by
  rcases driveIteration_cases h with ⟨hPassed, -⟩ | ⟨-, -, rfl⟩ | ⟨-, -, w, -, rfl⟩
  · rw [hWindow] at hPassed
    cases hPassed
  · rfl
  · rfl

/-- R197: no sample is past the maximal window. -/
theorem windowPassed_maximal (c : Nat) {s : State} (hRate : s.refreshRate + 1 = 2 ^ s.config.wT) :
    windowPassed c s = false := by
  rw [passed_false, ← Nat.lt_succ_iff, Nat.succ_eq_add_one, hRate]
  exact Nat.mod_lt _ (Nat.two_pow_pos _)

/-- Settles O47: by the number of steps, each keeping the invariant, the phase and the maximal rate. -/
theorem maximalRateNeverEnds : Obligations.MaximalRateNeverEnds := by
  unfold Obligations.MaximalRateNeverEnds
  intro s k hI hDrive hRate
  induction k generalizing s with
  | zero => exact ⟨s, rfl, hDrive⟩
  | succ k ih =>
    obtain ⟨t, hStep⟩ := driveNeverStops s hI hDrive
    have kept := step_driveKeeps hDrive hStep
    have staysDriving : t.phase = .drive := by
      rw [step_drive hDrive] at hStep
      exact (driveIteration_phase (windowPassed_maximal (s := tick s) _ hRate) hStep).trans hDrive
    rw [runSteps_succ k hStep]
    exact ih t (stepKeepsInvariant s t hI hStep) staysDriving (by rw [kept.refreshRate, kept.config, hRate])

end Sys2Proof.Machine
end

section
/-! PROOF. A whole print (R198): it begins a drive of legal frames, each sample in the window commits the word of the
next frame in the cycle, and the first sample past the window ends it. -/

namespace Sys2Proof.Machine

/-! The words of a cycle, from word j on. -/

/-- `c` words of the cycle over `W`, the first of them word `j`: `cycleWords` is this from word 0. -/
def cycleWordsFrom (W : List Word16) (j c : Nat) : List Word16 :=
  if W.isEmpty then [] else (List.range' j c).map fun i => W.getD (i % W.length) 0

theorem cycleWordsFrom_zero (W : List Word16) (c : Nat) : cycleWordsFrom W 0 c = cycleWords W c := by
  rw [cycleWordsFrom, cycleWords, List.range_eq_range']

theorem cycleWordsFrom_none (W : List Word16) (j : Nat) : cycleWordsFrom W j 0 = [] := by
  rw [cycleWordsFrom]
  split <;> rfl

theorem cycleWordsFrom_succ (W : List Word16) (j c : Nat) :
    cycleWordsFrom W j (c + 1) = cycleWordsFrom W j 1 ++ cycleWordsFrom W (j + 1) c := by
  unfold cycleWordsFrom
  split
  · rfl
  · rw [List.range'_succ]
    rfl

theorem mem_of_mem_cycleWords {W : List Word16} {c : Nat} {w : Word16} (h : w ∈ cycleWords W c) : w ∈ W := by
  unfold cycleWords at h
  split at h
  · cases h
  · rename_i hW
    obtain ⟨j, -, rfl⟩ := List.mem_map.mp h
    have positive : 0 < W.length := List.length_pos_iff.mpr (by simpa using hW)
    have inRange : j % W.length < W.length := Nat.mod_lt j positive
    rw [List.getD_eq_getElem _ _ inRange]
    exact List.getElem_mem inRange

/-- After as many words as `W` has, each was committed. -/
theorem mem_cycleWords {W : List Word16} {c : Nat} {w : Word16} (hLong : W.length ≤ c) (h : w ∈ W) :
    w ∈ cycleWords W c := by
  obtain ⟨k, hk, rfl⟩ := List.mem_iff_getElem.mp h
  have nonempty : W.isEmpty = false := List.isEmpty_eq_false_iff.mpr (List.ne_nil_of_length_pos (by omega))
  rw [cycleWords, if_neg (by simp [nonempty])]
  refine List.mem_map.mpr ⟨k, List.mem_range.mpr (by omega), ?_⟩
  rw [Nat.mod_eq_of_lt hk, List.getD_eq_getElem _ _ hk]

theorem cycleWords_length {W : List Word16} (c : Nat) (h : W ≠ []) : (cycleWords W c).length = c := by
  rw [cycleWords, if_neg (by simpa using h), List.length_map, List.length_range]

/-! The drive between two commits. -/

/-- `s` is in a drive of `seq` that took its start sample at true time `start`, `past` milliseconds ago, and whose next
word is word `j` of the cycle. -/
structure Driving (seq : FrameSeq) (start past j : Nat) (s : State) : Prop where
  phase : s.phase = .drive
  ndig : s.ndig.toNat = seq.length
  frame : ∀ k : BitVec 2, (hk : k.toNat < seq.length) → s.frame k = seq[k.toNat]
  scan : seq ≠ [] → s.scan.toNat = j % seq.length
  tStart : s.tStart = toWidth s.config.wT start
  trueTime : s.trueTime = start + past

/-- From `s` to `t` a drive took `steps` steps, one sample each, and committed `words`. -/
structure Committed (words : List Word16) (steps : Nat) (s t : State) : Prop where
  keeps : DriveKeeps s t
  txlog : t.txlog = s.txlog ++ words
  nowCalls : t.nowCalls = s.nowCalls + steps

theorem Committed.refl (s : State) : Committed [] 0 s s := ⟨DriveKeeps.refl s, (List.append_nil _).symm, rfl⟩

theorem Committed.trans {words more : List Word16} {j k : Nat} {s t u : State} (h : Committed words j s t)
    (h' : Committed more k t u) : Committed (words ++ more) (j + k) s u where
  keeps := h.keeps.trans h'.keeps
  txlog := by rw [h'.txlog, h.txlog, List.append_assoc]
  nowCalls := by rw [h'.nowCalls, h.nowCalls, Nat.add_assoc]

/-- The true time of the next sample of a drive. -/
theorem Driving.sampleTime {seq : FrameSeq} {start past j d : Nat} {s : State} {later : List Nat}
    (h : Driving seq start past j s) (hAdvances : s.advances = d :: later) :
    s.trueTime + nextAdvance s = start + (past + d) := by
  rw [nextAdvance_of_advances hAdvances, h.trueTime, Nat.add_assoc]

/-- R188: the deadline test of a drive compares the true time since its start. -/
theorem Driving.windowPassed_iff {seq : FrameSeq} {start past j d : Nat} {s : State} {later : List Nat}
    (h : Driving seq start past j s) (hAdvances : s.advances = d :: later) (hFits : past + d < 2 ^ s.config.wT) :
    windowPassed (sample s) (tick s) = true ↔ s.refreshRate < past + d := by
  have test := deadlineTestSurvivesTheWrap s.config.wT s.refreshRate start (start + (past + d)) (by omega) (by omega)
  rw [Nat.add_sub_cancel_left] at test
  rw [windowPassed, sample, h.sampleTime hAdvances]
  show deadlinePassed s.config.wT s.refreshRate _ s.tStart = true ↔ _
  rw [h.tStart]
  exact test

/-- A legal frame has a word (R122). -/
theorem frameWord_of_glyph (rom : Vector Byte 29) (pol : Polarity) {fr : DigitFrame} (h : fr.g.toNat ≤ 28) :
    frameWord rom pol fr = some ((frameWord rom pol fr).getD 0) := by
  have inRom : fr.g.toNat < 29 := Nat.lt_succ_of_le h
  rw [frameWord, glyph, Vector.getElem?_eq_getElem inRom, Option.map_some, Option.getD_some]

/-- The word that a drive over some frame commits next. -/
theorem cycleWordsFrom_one (rom : Vector Byte 29) (pol : Polarity) {seq : FrameSeq} (j : Nat)
    (h : j % seq.length < seq.length) :
    cycleWordsFrom (wordsOf rom pol seq) j 1 = [(frameWord rom pol seq[j % seq.length]).getD 0] := by
  have nonempty : (wordsOf rom pol seq).isEmpty = false := by
    cases seq with
    | nil => exact absurd h (Nat.not_lt_zero _)
    | cons fr frs => rfl
  have length : (wordsOf rom pol seq).length = seq.length := List.length_map _
  rw [cycleWordsFrom, if_neg (by simp [nonempty]), List.range'_one, List.map_singleton, length,
    List.getD_eq_getElem _ _ (by rw [length]; exact h)]
  simp only [wordsOf, List.getElem_map]

/-- The frame that a drive commits next. -/
theorem Driving.scanned {seq : FrameSeq} {start past j : Nat} {s : State} (h : Driving seq start past j s)
    (inRange : j % seq.length < seq.length) : s.frame s.scan = seq[j % seq.length] := by
  have hScan := h.scan (List.ne_nil_of_length_pos (by omega))
  rw [h.frame s.scan (by rw [hScan]; exact inRange)]
  congr 1

/-- R28: and the index of the one after it. -/
theorem Driving.nextScan_toNat {seq : FrameSeq} {start past j : Nat} {s : State} (h : Driving seq start past j s)
    (hn : s.ndig ≠ 0) (atMostFour : seq.length ≤ 4) (nonempty : seq ≠ []) :
    (nextScan s).toNat = (j + 1) % seq.length := by
  rw [Machine.nextScan_toNat hn (by rw [h.ndig]; exact atMostFour), h.scan nonempty, h.ndig, Nat.mod_add_mod]

/-- R189, R191: one sample in the window commits one word of the cycle, or none where there are no frames. -/
theorem Driving.step_inWindow {seq : FrameSeq} {start past j d : Nat} {s : State} {later : List Nat}
    (hLegal : Legal seq) (h : Driving seq start past j s) (hAdvances : s.advances = d :: later)
    (hWindow : past + d ≤ s.refreshRate) (hFits : past + d < 2 ^ s.config.wT) :
    ∃ t, step s = .next t ∧ Driving seq start (past + d) (j + 1) t ∧
      Committed (cycleWordsFrom (wordsOf s.config.glyphRom s.polarity seq) j 1) 1 s t ∧ t.advances = later := by
  have inWindow : windowPassed (sample s) (tick s) = false := by
    rw [← Bool.not_eq_true, h.windowPassed_iff hAdvances hFits]
    omega
  have time := h.sampleTime hAdvances
  have rest : s.advances.tail = later := by rw [hAdvances, List.tail_cons]
  rw [step_drive h.phase]
  by_cases hn : s.ndig = 0
  · obtain rfl : seq = [] := List.length_eq_zero_iff.mp (by rw [← h.ndig, hn]; rfl)
    exact ⟨tick s, iter_empty inWindow hn, ⟨h.phase, h.ndig, h.frame, fun ne => absurd rfl ne, h.tStart, time⟩,
      ⟨tick_driveKeeps s, (List.append_nil _).symm, rfl⟩, rest⟩
  · have positive : 0 < seq.length := by rw [← h.ndig]; exact Nat.pos_of_ne_zero (ndig_pos hn)
    have inRange : j % seq.length < seq.length := Nat.mod_lt j positive
    obtain ⟨atMostFour, glyphs, -⟩ := hLegal
    have word := frameWord_of_glyph s.config.glyphRom s.polarity (glyphs _ (List.getElem_mem inRange)).1
    rw [← h.scanned inRange] at word
    rw [cycleWordsFrom_one _ _ j inRange, ← h.scanned inRange]
    exact ⟨commitFrame _ (tick s), iter_commit inWindow hn word,
      ⟨h.phase, h.ndig, h.frame, h.nextScan_toNat hn atMostFour, h.tStart, time⟩,
      ⟨(tick_driveKeeps s).trans (commitFrame_driveKeeps _ _), rfl, rfl⟩, rest⟩

/-- All samples in the window, one after the other. -/
theorem Driving.run_inWindow {seq : FrameSeq} {start : Nat} {later : List Nat} (hLegal : Legal seq)
    (inside : List Nat) {past j : Nat} {s : State} (h : Driving seq start past j s)
    (hAdvances : s.advances = inside ++ later) (hWindow : past + inside.sum ≤ s.refreshRate)
    (hFits : past + inside.sum < 2 ^ s.config.wT) :
    ∃ t, runSteps inside.length s = .next t ∧ Driving seq start (past + inside.sum) (j + inside.length) t ∧
      Committed (cycleWordsFrom (wordsOf s.config.glyphRom s.polarity seq) j inside.length) inside.length s t ∧
      t.advances = later := by
  induction inside generalizing past j s with
  | nil =>
    rw [List.length_nil, cycleWordsFrom_none]
    exact ⟨s, rfl, h, Committed.refl s, hAdvances⟩
  | cons d ds ih =>
    rw [List.sum_cons, ← Nat.add_assoc] at hWindow hFits
    obtain ⟨u, hStep, hDriving, hFirst, hRest⟩ := h.step_inWindow hLegal hAdvances (by omega) (by omega)
    have kept := hFirst.keeps
    obtain ⟨t, hRun, hEnd, hMore, hLater⟩ := ih hDriving hRest (by rw [kept.refreshRate]; exact hWindow)
      (by rw [kept.config]; exact hFits)
    rw [kept.config, kept.polarity] at hMore
    refine ⟨t, ?run, ?driving, ?committed, hLater⟩
    case run => rw [List.length_cons, runSteps_succ _ hStep, hRun]
    case driving =>
      rw [List.sum_cons, List.length_cons, ← Nat.add_assoc, Nat.add_comm ds.length 1, ← Nat.add_assoc]
      exact hEnd
    case committed =>
      rw [List.length_cons, cycleWordsFrom_succ, Nat.add_comm ds.length 1]
      exact hFirst.trans hMore

/-- R192: the first sample past the window. -/
theorem Driving.step_pastWindow {seq : FrameSeq} {start past j e : Nat} {s : State} {more : List Nat}
    (h : Driving seq start past j s) (hAdvances : s.advances = e :: more) (hPassed : s.refreshRate < past + e)
    (hFits : past + e < 2 ^ s.config.wT) : step s = .next (endDrive (tick s)) := by
  rw [step_drive h.phase, iter_end ((h.windowPassed_iff hAdvances hFits).mpr hPassed)]

/-! The whole print. -/

/-- R186: a print begins a drive at its start sample, with nothing committed yet. -/
theorem driving_of_begun {seq : FrameSeq} {rate : Nat} {s t : State} (hLegal : Legal seq)
    (h : DriveBegun seq rate s t) : Driving seq (s.trueTime + nextAdvance s) 0 0 t := by
  obtain ⟨-, hState⟩ := id h
  obtain ⟨atMostFour, -⟩ := hLegal
  have frames := begun_frame h
  refine ⟨by rw [hState], ?ndig, ?frame, ?scan, by rw [hState]; rfl, by rw [hState]; rfl⟩
  case ndig =>
    rw [hState, BitVec.toNat_ofNat]
    omega
  case frame =>
    intro k hk
    rw [frames k, List.getElem?_eq_getElem hk, Option.getD_some]
  case scan =>
    intro _
    rw [hState, Nat.zero_mod]
    rfl

/-- R210, R214 to R216: a ready machine accepts a print, and its drive begins in the same step. -/
theorem step_print {s : State} {i : Instr} {rest : List Byte} {r : Formatted} (hIdle : s.phase = .idle)
    (hBuilt : s.constructed = true) (hWell : i.wellFormed = true) (hPort : s.port = encode i ++ rest)
    (hr : printOf s.config i = some r) (hLimits : i.withinLimits s.config = true) :
    ∃ b, step s = .next b ∧
      DriveBegun (framesShown r) (windowOf s.config r s.refreshRate) (takeOperation rest s) b := by
  refine ⟨showFormatted r (takeOperation rest s), ?_, showFormatted_begins r (takeOperation rest s)⟩
  rw [stepRunsTheDecodedOperation s i rest hIdle hWell hPort]
  exact exec_print (s := takeOperation rest s) hIdle hBuilt hWell hLimits hr

/-- Settles O44: the accepting step, the samples in the window, the sample past it. -/
theorem printShowsItsFramesForItsWindow : Obligations.PrintShowsItsFramesForItsWindow := by
  unfold Obligations.PrintShowsItsFramesForItsWindow
  intro s i rest r a inside e more hIdle hBuilt hWell hPort hr hLimits hAdvances hWindow hPassed hFits
  have hLegal : Legal (framesShown r) := shown_legal s.config i r hr (printf_operands_legal hWell)
  obtain ⟨b, hAccept, hBegun⟩ := step_print hIdle hBuilt hWell hPort hr hLimits
  obtain ⟨-, hState⟩ := id hBegun
  have hRate : b.refreshRate = windowOf s.config r s.refreshRate := by rw [hState]
  have hConfig : b.config = s.config := by rw [hState]; rfl
  have hPolarity : b.polarity = s.polarity := by rw [hState]; rfl
  have hLater : b.advances = inside ++ e :: more := by rw [hState]; exact congrArg List.tail hAdvances
  obtain ⟨t, hRun, hEnd, hCommitted, hMore⟩ := (driving_of_begun hLegal hBegun).run_inWindow hLegal inside hLater
    (by rw [Nat.zero_add, hRate]; exact hWindow) (by rw [Nat.zero_add, hConfig]; omega)
  obtain ⟨kept, hTxlog, hCalls⟩ := hCommitted
  have hLast : step t = .next (endDrive (tick t)) := hEnd.step_pastWindow hMore
    (by rw [Nat.zero_add, kept.refreshRate, hRate]; exact hPassed)
    (by rw [Nat.zero_add, kept.config, hConfig]; exact hFits)
  refine ⟨endDrive (tick t), ?run, rfl, ?txlog, kept.refreshRate.trans hRate, ?port, ?response,
    kept.polarity.trans hPolarity, ?constructed, kept.config.trans hConfig, ?advances, ?nowCalls⟩
  case run =>
    rw [runSteps_succ _ hAccept, runSteps_append _ 1 hRun, runSteps_succ 0 hLast]
    rfl
  case txlog =>
    rw [hConfig, hPolarity, cycleWordsFrom_zero] at hTxlog
    refine hTxlog.trans ?_
    rw [hState]
    rfl
  case port => exact kept.port.trans (by rw [hState]; rfl)
  case response => exact kept.response.trans (by rw [hState]; rfl)
  case constructed => exact kept.constructed.trans (by rw [hState]; exact hBuilt)
  case advances => rw [endDrive_advances, tick_advances, hMore, List.tail_cons]
  case nowCalls =>
    have accepted : b.nowCalls = s.nowCalls + 1 := by rw [hState]; rfl
    rw [endDrive_nowCalls, tick_nowCalls, hCalls, accepted]
    omega

/-- Settles O45: with as many commits as frames the cycle has come to each of them. -/
theorem longEnoughWindowShowsEveryFrame : Obligations.LongEnoughWindowShowsEveryFrame := by
  unfold Obligations.LongEnoughWindowShowsEveryFrame
  intro s i rest seq a inside e more hIdle hBuilt hWell hPort hr hLimits hAdvances hWindow hPassed hFits hLong
  obtain ⟨t, hRun, hEnd, hTxlog, -⟩ := printShowsItsFramesForItsWindow s i rest (.frames seq) a inside e more hIdle
    hBuilt hWell hPort hr hLimits hAdvances hWindow hPassed hFits
  refine ⟨t, _, hRun, hEnd, hTxlog, fun fr hfr p hp => ?_⟩
  have word : frameWord s.config.glyphRom s.polarity fr = some (encodeWord p fr.pos fr.dp s.polarity) :=
    congrArg (Option.map _) hp
  refine mem_cycleWords (by rw [wordsOf, List.length_map]; exact hLong) (List.mem_map.mpr ⟨fr, hfr, ?_⟩)
  rw [word, Option.getD_some]

/-- Settles O46: `c` samples at the start instant, then one just past the window. -/
theorem anyNumberOfCommitsIsPossible : Obligations.AnyNumberOfCommitsIsPossible := by
  unfold Obligations.AnyNumberOfCommitsIsPossible
  intro s i rest r c hIdle hBuilt hWell hPort hr hLimits hFrames hWindow
  have noTime : (List.replicate c 0).sum = 0 := by rw [List.sum_replicate, smul_zero]
  obtain ⟨t, hRun, hEnd, hTxlog, -⟩ := printShowsItsFramesForItsWindow
    { s with advances := 0 :: (List.replicate c 0 ++ (windowOf s.config r s.refreshRate + 1) :: []) } i rest r 0
    (List.replicate c 0) (windowOf s.config r s.refreshRate + 1) [] hIdle hBuilt hWell hPort hr hLimits rfl
    (by rw [noTime]; exact Nat.zero_le _) (by rw [noTime, Nat.zero_add]; exact Nat.lt_succ_self _)
    (by rw [noTime, Nat.zero_add]; exact hWindow)
  rw [List.length_replicate] at hRun hTxlog
  refine ⟨_, t, hRun, hEnd, ?_⟩
  rw [hTxlog, List.length_append, cycleWords_length c (by simpa [wordsOf] using hFrames)]

/-- Settles O48: the error text's drive by O44, then one step that answers the rate it left. -/
theorem failedPrintIsVisibleInTheRate : Obligations.FailedPrintIsVisibleInTheRate := by
  unfold Obligations.FailedPrintIsVisibleInTheRate
  intro s i rest sig a inside e more hIdle hBuilt hWell hPort hr hLimits hAdvances hWindow hPassed hFits
  rw [List.append_assoc] at hPort
  obtain ⟨u, hRun, hEnd, hTxlog, hRate, hLeft, hResponse, -, hStays, -⟩ := printShowsItsFramesForItsWindow s i
    (encode .getrate ++ rest) (.raised sig) a inside e more hIdle hBuilt hWell hPort hr hLimits hAdvances hWindow
    hPassed hFits
  have hGetrate : step u = .next (respond (BitVec.ofNat 32 s.config.defaultRefresh) (takeOperation rest u)) := by
    rw [stepRunsTheDecodedOperation u .getrate rest hEnd rfl hLeft]
    refine (exec_getrate (s := takeOperation rest u) hEnd hStays).trans ?_
    rw [takeOperation_refreshRate, hRate]
    rfl
  have answer : (respond (BitVec.ofNat 32 s.config.defaultRefresh) (takeOperation rest u)).response =
      s.response ++ bytesOfWord (BitVec.ofNat 32 s.config.defaultRefresh) := by
    rw [respond_response, takeOperation_response, hResponse]
  refine ⟨respond (BitVec.ofNat 32 s.config.defaultRefresh) (takeOperation rest u), _, ?run, hEnd, answer,
    fun hDefault => ?bytes, hTxlog, fun w hw => mem_of_mem_cycleWords hw⟩
  case run =>
    rw [runSteps_append (inside.length + 2) 1 hRun, runSteps_succ 0 hGetrate]
    rfl
  case bytes =>
    rw [answer, hDefault]
    rfl

end Sys2Proof.Machine
end

section
/-! PROOF. Rules of the whole machine (R25 to R27, R66, R72, R75): each step is of one of six kinds, and what a kind
writes follows from it. Then hardware reset (R260, R262) and the parameters of R6. -/

namespace Sys2Proof.Machine

/-- The kinds of step that answer a next state. -/
inductive StepKind (s t : State) : Prop where
  /-- R187: one iteration of a drive, after its clock sample. -/
  | iterated (hDrive : s.phase = .drive) (h : driveIteration (sample s) (tick s) = .next t)
  /-- R106: the operation at the head of the port is incomplete. -/
  | waited (h : t = s)
  /-- R211. -/
  | constructed (pol : Polarity) (rest : List Byte) (hIdle : s.phase = .idle)
      (hPort : decode s.port = .operation (.construct pol) rest) (hNew : s.constructed = false)
      (h : t = { takeOperation rest s with
        polarity := pol, refreshRate := s.config.defaultRefresh, constructed := true })
  /-- R212. -/
  | rateSet (ms : Word) (rest : List Byte) (hIdle : s.phase = .idle)
      (hPort : decode s.port = .operation (.setrate ms) rest)
      (h : t = { takeOperation rest s with refreshRate := toWidth s.config.wT ms.toNat })
  /-- R213. -/
  | rateAnswered (rest : List Byte) (h : t = respond (BitVec.ofNat 32 s.refreshRate) (takeOperation rest s))
  /-- R214 to R216: a print begins its drive. -/
  | printed (i : Instr) (rest : List Byte) (r : Formatted) (hIdle : s.phase = .idle)
      (hPort : decode s.port = .operation i rest) (hr : printOf s.config i = some r)
      (h : DriveBegun (framesShown r) (windowOf s.config r s.refreshRate) (takeOperation rest s) t)

theorem stepKind_of_step {s t : State} (h : step s = .next t) : StepKind s t := by
  rcases step_cases h with ⟨hDrive, hIter⟩ | ⟨-, -, hSame⟩ | ⟨hIdle, i, rest, hPort, hExec⟩
  · exact .iterated hDrive hIter
  · exact .waited hSame
  · obtain ⟨-, ⟨pol, rfl, hNew, ht⟩ | ⟨ms, rfl, -, ht⟩ | ⟨rfl, -, ht⟩ | ⟨r, hr, -, -, -, rfl⟩⟩ := exec_cases hExec
    · exact .constructed pol rest hIdle hPort hNew ht
    · exact .rateSet ms rest hIdle hPort ht
    · exact .rateAnswered rest ht
    · exact .printed i rest r hIdle hPort hr (showFormatted_begins r (takeOperation rest s))

/-- An iteration, its clock sample included, writes nothing of `DriveKeeps`. -/
theorem iterated_driveKeeps {s t : State} (h : driveIteration (sample s) (tick s) = .next t) : DriveKeeps s t :=
  (tick_driveKeeps s).trans (driveIteration_driveKeeps h)

/-- Every step but CONSTRUCT keeps the polarity and the lifecycle bit. -/
theorem lifecycle_kept {s t : State} (h : step s = .next t) :
    (t.constructed = s.constructed ∧ t.polarity = s.polarity) ∨
    (s.constructed = false ∧ t.constructed = true ∧
      ∃ pol rest, decode s.port = .operation (.construct pol) rest ∧ t.polarity = pol) := by
  cases stepKind_of_step h with
  | iterated hDrive hIter => exact .inl ⟨(iterated_driveKeeps hIter).constructed, (iterated_driveKeeps hIter).polarity⟩
  | waited ht => rw [ht]; exact .inl ⟨rfl, rfl⟩
  | constructed pol rest hIdle hPort hNew ht => rw [ht]; exact .inr ⟨hNew, rfl, pol, rest, hPort, rfl⟩
  | rateSet ms rest hIdle hPort ht => rw [ht]; exact .inl ⟨rfl, rfl⟩
  | rateAnswered rest ht => rw [ht]; exact .inl ⟨rfl, rfl⟩
  | printed i rest r hIdle hPort hr hBegun => rw [hBegun.2]; exact .inl ⟨rfl, rfl⟩

/-- Settles O49: a step keeps both, or it is the one CONSTRUCT. -/
theorem polarityIsWrittenOnce : Obligations.PolarityIsWrittenOnce := by
  unfold Obligations.PolarityIsWrittenOnce
  intro s t h
  rcases lifecycle_kept h with ⟨hSame, hPolarity⟩ | ⟨hNew, hBuilt, hConstruct⟩
  · exact ⟨fun hOld => ⟨hSame.trans hOld, hPolarity⟩, fun hNot hNow => absurd (hSame.symm.trans hNow) (by simp [hNot]),
      fun _ => hPolarity⟩
  · exact ⟨fun hOld => absurd hOld (by simp [hNew]), fun _ _ => hConstruct, fun hNot => absurd hNot (by simp [hBuilt])⟩

/-- Settles O50: kind by kind; a print without a signal keeps the rate. -/
theorem rateHasThreeWriters : Obligations.RateHasThreeWriters := by
  unfold Obligations.RateHasThreeWriters
  intro s t h hChanged
  cases stepKind_of_step h with
  | iterated hDrive hIter => exact absurd (iterated_driveKeeps hIter).refreshRate hChanged
  | waited ht => exact absurd (by rw [ht]) hChanged
  | constructed pol rest hIdle hPort hNew ht => exact ⟨hIdle, .inl ⟨pol, rest, hPort, by rw [ht]⟩⟩
  | rateSet ms rest hIdle hPort ht => exact ⟨hIdle, .inr (.inl ⟨ms, rest, hPort, by rw [ht]; rfl⟩)⟩
  | rateAnswered rest ht => exact absurd (by rw [ht]; rfl) hChanged
  | printed i rest r hIdle hPort hr hBegun =>
    have newRate : t.refreshRate = windowOf s.config r s.refreshRate := by rw [hBegun.2]
    cases r with
    | frames seq => exact absurd newRate hChanged
    | raised sig => exact ⟨hIdle, .inr (.inr ⟨i, rest, sig, hPort, hr, newRate⟩)⟩

/-- Settles O51: only an iteration commits, one word at most, and only GETRATE answers. -/
theorem txlogGrowsOneWordAtATime : Obligations.TxlogGrowsOneWordAtATime := by
  unfold Obligations.TxlogGrowsOneWordAtATime
  intro s t h
  have nothing : s.response = s.response ++ [] := (List.append_nil _).symm
  cases stepKind_of_step h with
  | iterated hDrive hIter =>
    refine ⟨?_, [], (iterated_driveKeeps hIter).response.trans nothing⟩
    rcases driveIteration_cases hIter with ⟨-, rfl⟩ | ⟨-, -, rfl⟩ | ⟨-, -, w, -, rfl⟩
    · exact .inl ⟨rfl, rfl⟩
    · exact .inl ⟨rfl, rfl⟩
    · exact .inr ⟨hDrive, hDrive, w, rfl, rfl⟩
  | waited ht => rw [ht]; exact ⟨.inl ⟨rfl, rfl⟩, [], nothing⟩
  | constructed pol rest hIdle hPort hNew ht => rw [ht]; exact ⟨.inl ⟨rfl, rfl⟩, [], nothing⟩
  | rateSet ms rest hIdle hPort ht => rw [ht]; exact ⟨.inl ⟨rfl, rfl⟩, [], nothing⟩
  | rateAnswered rest ht => rw [ht]; exact ⟨.inl ⟨rfl, rfl⟩, _, rfl⟩
  | printed i rest r hIdle hPort hr hBegun => rw [hBegun.2]; exact ⟨.inl ⟨rfl, rfl⟩, [], nothing⟩

/-- Settles O52: no kind of step writes the parameters. -/
theorem parametersNeverChange : Obligations.ParametersNeverChange := by
  unfold Obligations.ParametersNeverChange
  intro s t h
  cases stepKind_of_step h with
  | iterated hDrive hIter => exact (iterated_driveKeeps hIter).config
  | waited ht => rw [ht]
  | constructed pol rest hIdle hPort hNew ht => rw [ht]; rfl
  | rateSet ms rest hIdle hPort ht => rw [ht]; rfl
  | rateAnswered rest ht => rw [ht]; rfl
  | printed i rest r hIdle hPort hr hBegun => rw [hBegun.2]; rfl

/-- R260, R262: whatever the registers hold after it, they have their width and the record is as it was. -/
theorem hardwareReset_keeps_invariant {s : State} (any : State) (hI : MachineInvariant s) :
    MachineInvariant (s.hardwareReset any) := by
  obtain ⟨-, -, -, hLatch, hSelects, -, -, hDefault⟩ := hI
  exact invariant_of_idle rfl hLatch hSelects ⟨toWidth_lt _ _, toWidth_lt _ _, hDefault⟩

/-- Settles O53: the reset machine is in IDLE and not constructed, so it refuses what it decodes. -/
theorem hardwareResetAbandonsTheDrive : Obligations.HardwareResetAbandonsTheDrive := by
  unfold Obligations.HardwareResetAbandonsTheDrive
  refine fun any s => ⟨rfl, rfl, rfl, rfl, hardwareReset_keeps_invariant any, fun i rest hWell hPort hOther => ?_⟩
  rw [stepRunsTheDecodedOperation (s.hardwareReset any) i rest rfl hWell hPort]
  exact exec_notConstructed rfl rfl hOther

/-- R91, log 23: cut to fewer bits than the port carries, the operand is the same modulo 2^`XLEN_I`; extended, it is
the same. -/
theorem integerValue_congruent (x : Nat) (v : Word) : (2 ^ x : Int) ∣ integerValue x v - v.toInt := by
  rw [integerValue]
  rcases Nat.le_total x 32 with hCut | hExtended
  · rw [BitVec.toInt_signExtend_eq_toInt_bmod_of_le v hCut]
    exact_mod_cast Int.dvd_bmod_sub_self
  · rw [BitVec.toInt_signExtend_of_le hExtended, sub_self]
    exact dvd_zero _

/-- Settles O56: a bit vector of `XLEN_I` bits, congruent to the four bytes and their sign extension from 32 bits up. -/
theorem integerOperandIsTwosComplement : Obligations.IntegerOperandIsTwosComplement := by
  unfold Obligations.IntegerOperandIsTwosComplement
  exact fun x v _ => ⟨BitVec.le_toInt _, BitVec.toInt_lt, integerValue_congruent x v,
    fun hExtended => BitVec.toInt_signExtend_of_le hExtended⟩

/-- Settles O55: the parameters of the reset state are those of `defaultConfig`. -/
theorem resetParametersAreTheSpecs : Obligations.ResetParametersAreTheSpecs := by
  unfold Obligations.ResetParametersAreTheSpecs
  exact ⟨rfl, rfl, rfl, rfl, rfl, rfl⟩

end Sys2Proof.Machine
end
